-- ==== Sys2Proof/Word.lean ====
section
/-! DEFINITION. The word types of the block (spec/00_scope.md R8, spec/10_state.md R53). -/

namespace Sys2Proof

/-- `u8`: a pixel, a threshold, a byte of the packed record or of the window (R8). -/
abbrev Byte := BitVec 8

/-- `u32`: a control register, a command word, the data of one host access (R8, R23). -/
abbrev Word := BitVec 32

/-- The bit pattern of an IEEE binary64 value, `f64(b)` (R13). -/
abbrev F64 := BitVec 64

/-- A cell of QBUF: a quantized value of 2 bits (R46). -/
abbrev QVal := BitVec 2

/-- A byte offset in the block's 16 MiB window (R61). -/
abbrev Offset := BitVec 24

end Sys2Proof
end

