-- ==== Sys2Proof/Config.lean ====
section
/-! DEFINITION. What an implementation fixes (spec/00_scope.md R6) and the values the spec leaves free
(spec/93_implementation_defined.md U6, U7). -/

namespace Sys2Proof

/-- Which 16 MiB slot of the host's physical addresses holds the window: OPEN in the spec (R6, D39; log 10). -/
opaque Config.blockSlot : Nat

/-- The build parameters of R6, each a named argument with the spec's default. -/
structure Params where
  /-- KR_MAX: maximum kernel rows. -/
  krMax : Nat := 4
  /-- KC_MAX: maximum kernel columns. -/
  kcMax : Nat := 7
  /-- TMAX: maximum threshold-matrix side. -/
  tMax : Nat := 16
  /-- MAXW: maximum image width in pixels. -/
  maxW : Nat := 2048
  /-- MAXH: maximum image height in pixels. -/
  maxH : Nat := 2048
  /-- MAXPIX: pixel capacity of PIX and QBUF. -/
  maxPix : Nat := maxW * maxH
  /-- OUTCAP: byte capacity of OUT, ceil(MAXPIX / 4) (with `ceil` of R8). -/
  outCap : Nat := (maxPix + 3) / 4
  /-- BLOCK_BASE: host physical address of offset 0 of the window, 16 MiB aligned (R61; log 10). -/
  blockBase : Nat := 0x1000000 * Config.blockSlot
  deriving DecidableEq, Repr

/-- The parameters of the block that `exec`, `step` and `core` are: every one at its default (R6; log 9). Every other
build is `commandOn`, `stepOn` and `coreOn` of its parameters. -/
def Config.params : Params := {}

/-- The n-th free byte: what the n-th read of an unwritten 8-bit cell, or of a byte of QBUF or OUT while BUSY, gives
(U6, U7; DESIGN CHOICE of form, safe; log 4). It has no body: no proof can see its value. -/
opaque Config.freeByte : Nat → Byte

/-- The n-th free quantized value: what the n-th read of an unwritten QBUF cell gives (U6; log 4). -/
opaque Config.freeQ : Nat → QVal

end Sys2Proof
end

