-- ==== Sys2Proof/Syntax.lean ====
section
/-! DEFINITION. The commands of spec/opcode_table.json and the events that reach the block from outside. -/

namespace Sys2Proof

/-- The seven commands (spec/30_encoding.md R92). A command has no operand fields: its operands are control registers
and local memories (R95). -/
inductive Instr where
  /-- Complete with no effect (R176). -/
  | nop
  /-- Error-diffuse PIX into QBUF (R110). -/
  | diffuse
  /-- Ordered-dither PIX into QBUF (R130). -/
  | ordered
  /-- Quantize PIX into QBUF (R140). -/
  | quantize
  /-- Pack QBUF into OUT (R150). -/
  | pack
  /-- The conversion MODE selects, then the packing (R177). -/
  | process
  /-- Return every control register to its reset value (R180). -/
  | softreset
  deriving DecidableEq, Repr

/-- The width of a host access: `n` in {1, 2, 4} of spec/20_memory.md R60. -/
inductive Width where
  | one
  | two
  | four
  deriving DecidableEq, Repr

/-- The number of bytes of an access (R60). -/
def Width.bytes : Width → Nat
  | .one => 1
  | .two => 2
  | .four => 4

/-- One atomic step of the interleavings of spec/70_reset_and_hazards.md R231: a host access, a hardware reset, or a
turn of the engine. -/
inductive Event where
  /-- `MemRead(off, n)` (R60). -/
  | read (off : Offset) (n : Width)
  /-- `MemWrite(off, n, v)` (R60): the value is the low 8n bits of `v`. -/
  | write (off : Offset) (n : Width) (v : Word)
  /-- The environment asserts `rst` (R220). -/
  | rst
  /-- The engine's turn: it runs the pending command, where there is one (R171). -/
  | engine
  deriving DecidableEq, Repr

/-- A host access at a physical address, on the host's side of the window (spec/20_memory.md R61). -/
inductive Access where
  /-- A read of `n` bytes. -/
  | read (addr : Nat) (n : Width)
  /-- A write of the low 8n bits of `v`. -/
  | write (addr : Nat) (n : Width) (v : Word)
  deriving DecidableEq, Repr

end Sys2Proof
end

