-- ==== Sys2Proof/Machine/State.lean ====
section
/-! DEFINITION. The persistent state of the block (spec/10_state.md R53), the reasons a step can stop, and reset. -/

namespace Sys2Proof.Machine

/-- A local memory: the written cells as (cell index, value), indices strictly rising (`Mem.Wf`). A cell that is not
listed is unwritten: it holds no value (R50; log 7). -/
abbrev Mem (α : Type) := List (Nat × α)

/-- The response of the block to one host access (spec/20_memory.md R60). -/
inductive Reply where
  /-- `Data(v)`: the value read, zero-extended to 32 bits. -/
  | data (v : Word)
  /-- `Ok`: the write completed (or was dropped while BUSY, R70). -/
  | ok
  /-- `BusError`: the access was refused (R72). -/
  | busError
  deriving DecidableEq, Repr

/-- The record of R53, and three fields of the model's own at its end. -/
structure State where
  /-- CTRL.IRQEN (R32). -/
  irqen : Bool
  /-- STATUS.BUSY (R27). -/
  busy : Bool
  /-- STATUS.DONE (R28). -/
  done : Bool
  /-- STATUS.ERR (R29). -/
  err : Bool
  /-- STATUS.WARN (R30). -/
  warn : Bool
  /-- STATUS.BUSYWR (R31). -/
  busywr : Bool
  /-- ERRCODE[7:0] (R34). -/
  errcode : Byte
  /-- ERRINFO[7:0] (R35). -/
  errinfo : Byte
  /-- ERRARG (R36). -/
  errarg : Word
  /-- CFG.MODE (R37). -/
  mode : BitVec 2
  /-- CFG.BPP (R37). -/
  bpp : BitVec 2
  /-- CFG.PADMODE (R37). -/
  padmode : BitVec 2
  /-- CFG.EDTIE (R37). -/
  edtie : Bool
  /-- WIDTH (R38). -/
  width : Word
  /-- HEIGHT (R38). -/
  height : Word
  /-- KROWS (R39). -/
  krows : Word
  /-- KCOLS (R39). -/
  kcols : Word
  /-- TSIZE (R40). -/
  tsize : Word
  /-- OUTLEN (R41). -/
  outlen : Word
  /-- PENDING: nothing, or the accepted command word (R51). -/
  pending : Option Word
  /-- PIX: cell i is the intensity of pixel i (R45). -/
  pix : Mem Byte
  /-- QBUF: cell i is the quantized value of pixel i (R46). -/
  qbuf : Mem QVal
  /-- OUT: cell k is byte k of the packed record (R47). -/
  out : Mem Byte
  /-- KMEM byte by byte: byte b of KMEM[r][c] is cell 8*(r*KC_MAX + c) + b (R48, R64; log 6). -/
  kmem : Mem Byte
  /-- TMEM: cell r*TMAX + c is TMEM[r][c] (R49, R65). -/
  tmem : Mem Byte
  /-- The model's own: how many free values have been drawn (log 4). -/
  fresh : Nat
  /-- The model's own: the events to come, in order (log 1). -/
  agenda : List Event
  /-- The model's own: the response to the latest host access (log 3). -/
  reply : Option Reply
  deriving DecidableEq, Repr

/-- Why a step stops the machine. The spec's own errors never stop it: they are completions (R198). -/
inductive Fault where
  /-- Raised by `step` when it is the engine's turn, BUSY is 1 and PENDING holds nothing. R51 says that no run reaches
  such a state (PENDING holds a word exactly while BUSY = 1): safe (log 11). -/
  | pendingMissing
  deriving DecidableEq, Repr

/-- Why the model gives no meaning. -/
inductive Refusal where
  /-- Raised by `exec` for a command that has no meaning yet: safe. No arm raises it. -/
  | notModelled (mnemonic : String)
  deriving DecidableEq, Repr

/-- The block after power-on and reset: every control register 0, PENDING nothing, every memory cell unwritten
(spec/70_reset_and_hazards.md R220, R221). The model's own fields: no free value drawn, no event to come, no response
(DESIGN CHOICE; log 1, 3, 4). -/
def State.reset : State where
  irqen := false
  busy := false
  done := false
  err := false
  warn := false
  busywr := false
  errcode := 0#8
  errinfo := 0#8
  errarg := 0#32
  mode := 0#2
  bpp := 0#2
  padmode := 0#2
  edtie := false
  width := 0#32
  height := 0#32
  krows := 0#32
  kcols := 0#32
  tsize := 0#32
  outlen := 0#32
  pending := none
  pix := []
  qbuf := []
  out := []
  kmem := []
  tmem := []
  fresh := 0
  agenda := []
  reply := none

end Sys2Proof.Machine
end

