-- ==== Sys2Proof/Machine/Ops.lean ====
section
/-! DEFINITION. The named operations over the local memories and the control registers: reading and writing cells,
accepting a command, completing one, and raising an error. -/

namespace Sys2Proof.Machine

/-! ## Local memories -/

/-- The canonical form of a memory: cell indices strictly rising (log 7). An unwritten cell holds no value, so no
listed entry can equal what an unlisted one reads as. -/
abbrev Mem.Wf {α : Type} (m : Mem α) : Prop := m.Pairwise (fun a b => a.1 < b.1)

/-- Every listed cell index is below the capacity `n`. -/
abbrev Mem.Below {α : Type} (n : Nat) (m : Mem α) : Prop := ∀ c ∈ m, c.1 < n

/-- What cell `i` holds: nothing while it is unwritten (spec/10_state.md R50). -/
def Mem.cell {α : Type} : Mem α → Nat → Option α
  | [], _ => none
  | (j, v) :: t, i => if j = i then some v else Mem.cell t i

/-- Write cell `i`, keeping the canonical form. -/
def Mem.put {α : Type} : Mem α → Nat → α → Mem α
  | [], i, v => [(i, v)]
  | (j, w) :: t, i, v =>
    if i < j then (i, v) :: (j, w) :: t else if i = j then (i, v) :: t else (j, w) :: Mem.put t i v

/-- Make every cell below `n` unwritten (spec/70_reset_and_hazards.md R222). -/
def Mem.unwrite {α : Type} (n : Nat) (m : Mem α) : Mem α := m.filter (fun c => decide (n ≤ c.1))

/-- The values of a list as the cells `i`, `i + 1`, … -/
def Mem.enum {α : Type} : Nat → List α → Mem α
  | _, [] => []
  | i, v :: vs => (i, v) :: Mem.enum (i + 1) vs

/-- Write the cells 0, 1, … of a memory with the values of a list, and no other cell. -/
def Mem.overlay {α : Type} (vs : List α) (m : Mem α) : Mem α := Mem.enum 0 vs ++ Mem.unwrite vs.length m

/-- Write consecutive cells from index `i`. -/
def Mem.writeRange {α : Type} : Mem α → Nat → List α → Mem α
  | m, _, [] => m
  | m, i, v :: vs => Mem.writeRange (Mem.put m i v) (i + 1) vs

/-- Read cell `i`. An unwritten cell gives the next free value, drawn afresh (R50, R77, U6; log 4, 5). The second
component is the count of free values drawn. -/
def Mem.read {α : Type} (free : Nat → α) (m : Mem α) (i n : Nat) : α × Nat :=
  match Mem.cell m i with
  | some v => (v, n)
  | none => (free n, n + 1)

/-- Read `k` consecutive cells from index `i`, in rising order. -/
def Mem.readRange {α : Type} (free : Nat → α) (m : Mem α) : Nat → Nat → Nat → List α × Nat
  | 0, _, n => ([], n)
  | k + 1, i, n =>
    ((Mem.read free m i n).1 :: (Mem.readRange free m k (i + 1) (Mem.read free m i n).2).1,
      (Mem.readRange free m k (i + 1) (Mem.read free m i n).2).2)

/-! ## Byte order (spec/20_memory.md R73) -/

/-- The number whose bytes, lowest first, are listed. -/
def natOfBytes : List Byte → Nat
  | [] => 0
  | b :: bs => b.toNat + 256 * natOfBytes bs

/-- The `n` low bytes of a word, lowest first: byte j is `v[8j+7:8j]`. -/
def bytesOf (n : Nat) (v : Word) : List Byte := (List.range n).map (fun j => v.extractLsb' (8 * j) 8)

/-! ## Updates of the state -/

/-- Record how many free values have been drawn. -/
def State.withFresh (n : Nat) (s : State) : State := { s with fresh := n }

/-- Record the response to a host access. -/
def State.withReply (r : Reply) (s : State) : State := { s with reply := some r }

/-- Set the events to come. -/
def State.withAgenda (l : List Event) (s : State) : State := { s with agenda := l }

/-- Replace the contents of QBUF. -/
def State.withQbuf (m : Mem QVal) (s : State) : State := { s with qbuf := m }

/-- Replace the contents of OUT. -/
def State.withOut (m : Mem Byte) (s : State) : State := { s with out := m }

/-- Write OUTLEN. -/
def State.withOutlen (v : Word) (s : State) : State := { s with outlen := v }

/-- Every control register and status bit to its reset value, PENDING to nothing; memories and the model's own fields
kept (spec/70_reset_and_hazards.md R220, R221). -/
def State.clearRegisters (s : State) : State :=
  { State.reset with
    pix := s.pix, qbuf := s.qbuf, out := s.out, kmem := s.kmem, tmem := s.tmem,
    fresh := s.fresh, agenda := s.agenda, reply := s.reply }

/-- What SOFTRESET clears before it completes: CTRL, CFG, WIDTH, HEIGHT, KROWS, KCOLS, TSIZE, OUTLEN and the sticky
status bits (spec/44_control_commands.md R180). -/
def State.clearConfig (s : State) : State :=
  { s with
    irqen := false, mode := 0#2, bpp := 0#2, padmode := 0#2, edtie := false, width := 0#32, height := 0#32,
    krows := 0#32, kcols := 0#32, tsize := 0#32, outlen := 0#32, err := false, warn := false, busywr := false }

/-! ## Accepting and completing a command -/

/-- `accept(word)` of R170. -/
def State.accept (word : Word) (s : State) : State :=
  { s with pending := some word, busy := true, done := false }

/-- `complete(code, info, arg, warn)` of R172: ERR and WARN are only ever set here. -/
def State.complete (code info : Byte) (arg : Word) (warn : Bool) (s : State) : State :=
  { s with
    errcode := code, errinfo := info, errarg := arg, err := s.err || code != 0#8, warn := s.warn || warn,
    done := true, busy := false, pending := none }

/-- `complete(OK, warn)`, that is `complete(0, 0, 0, warn)` (R172). -/
def State.completeOk (warn : Bool) (s : State) : State := s.complete 0#8 0#8 0#32 warn

/-- The result codes 1 to 9 of spec/60_exceptions.md R190. Code 0 is success; 10 to 255 are never written. -/
inductive ErrCode where
  | invalidKernel
  | invalidBufferDimensions
  | unsupportedBitDepth
  | incompletePackGroup
  | invalidThresholdMatrix
  | invalidMode
  | illegalCommand
  | invalidPadMode
  | qvalueRange
  deriving DecidableEq, Repr

/-- The number of a result code (R190). -/
def ErrCode.code : ErrCode → Byte
  | .invalidKernel => 1#8
  | .invalidBufferDimensions => 2#8
  | .unsupportedBitDepth => 3#8
  | .incompletePackGroup => 4#8
  | .invalidThresholdMatrix => 5#8
  | .invalidMode => 6#8
  | .illegalCommand => 7#8
  | .invalidPadMode => 8#8
  | .qvalueRange => 9#8

/-- `CmdError(code, info, arg)` of spec/00_scope.md R10. -/
structure CmdError where
  code : ErrCode
  info : Byte
  arg : Word
  deriving DecidableEq, Repr

/-- TAKING AN ERROR, the block's one exception mechanism: `raise CmdError(code, info, arg)` is the completion with that
code and no warning, and no other effect (R10; R172; R193). The block has no saved program counter, no vector and no
return from an error (R198). -/
def State.raise (e : CmdError) (s : State) : State := s.complete e.code.code e.info e.arg false

end Sys2Proof.Machine
end

