-- ==== Sys2Proof/Machine/Operands.lean ====
section
/-! DEFINITION. The derived operand values of spec/30_encoding.md R96, under the spec's names, and how a command reads
its operands from the local memories (R97). -/

namespace Sys2Proof.Machine

/-- W = csr.WIDTH (R96). -/
def State.W (s : State) : Nat := s.width.toNat

/-- H = csr.HEIGHT (R96). -/
def State.H (s : State) : Nat := s.height.toNat

/-- N = W * H (R96). -/
def State.N (s : State) : Nat := s.W * s.H

/-- BPP = csr.CFG[5:4] (R96). -/
def State.BPP (s : State) : Nat := s.bpp.toNat

/-- L = 1 << BPP: the number of levels (R7, R96). -/
def State.L (s : State) : Nat := 2 ^ s.BPP

/-- L1 = L - 1: the largest quantized value, as a cell of QBUF (R7, R96). -/
def State.L1 (s : State) : QVal := BitVec.ofNat 2 (s.L - 1)

/-- G = 8 div BPP: pixels per byte (R96). -/
def State.G (s : State) : Nat := 8 / s.BPP

/-- KR = csr.KROWS (R96). -/
def State.KR (s : State) : Nat := s.krows.toNat

/-- KC = csr.KCOLS (R96). -/
def State.KC (s : State) : Nat := s.kcols.toNat

/-- mid = KC div 2: the kernel's centre column (R39, R96). -/
def State.mid (s : State) : Nat := s.KC / 2

/-- T = csr.TSIZE (R96). -/
def State.T (s : State) : Nat := s.tsize.toNat

/-- MODE = csr.CFG[1:0] (R96). -/
def State.MODE (s : State) : Nat := s.mode.toNat

/-- PAD = csr.CFG[9:8] (R96). -/
def State.PAD (s : State) : Nat := s.padmode.toNat

/-- TIE = csr.CFG[12] (R96). -/
def State.TIE (s : State) : Bool := s.edtie

/-- A quantized value `b * L1` of a bilevel result `b` (spec/40_error_diffusion.md R117, spec/41_ordered_dither.md R134). -/
def State.bilevel (s : State) (b : Bool) : QVal := if b then s.L1 else 0#2

/-- Kernel cell (r, c) is applied (R111). -/
def applied (mid r c : Nat) : Bool := decide (1 ≤ r) || (decide (r = 0) && decide (mid < c))

/-- The applied cells of a kernel of KR rows and KC columns, in row-major order (R111, R191). -/
def appliedCells (KR KC : Nat) : List (Nat × Nat) :=
  ((List.range KR).flatMap (fun r => (List.range KC).map (fun c => (r, c)))).filter
    (fun rc => applied (KC / 2) rc.1 rc.2)

/-- The byte index in KMEM of cell (r, c): row stride KC_MAX, 8 bytes a cell (spec/20_memory.md R64). -/
def kmemIndex (P : Params) (r c : Nat) : Nat := 8 * (r * P.kcMax + c)

/-- `w(r, c) = f64(KMEM[r][c])`: eight bytes, little-endian (R64, R97). Unwritten bytes are drawn free (log 6). -/
def readWeight (P : Params) (s : State) (r c n : Nat) : F64 × Nat :=
  (BitVec.ofNat 64 (natOfBytes (Mem.readRange Config.freeByte s.kmem 8 (kmemIndex P r c) n).1),
    (Mem.readRange Config.freeByte s.kmem 8 (kmemIndex P r c) n).2)

/-- `TMEM[r][c]` (R65, R97). -/
def readThreshold (P : Params) (s : State) (r c n : Nat) : Byte × Nat :=
  Mem.read Config.freeByte s.tmem (r * P.tMax + c) n

/-- `PIX[i]` (R67, R97). -/
def readPixel (s : State) (i n : Nat) : Byte × Nat := Mem.read Config.freeByte s.pix i n

/-- `QBUF[i]` (R68). -/
def readQ (s : State) (i n : Nat) : QVal × Nat := Mem.read Config.freeQ s.qbuf i n

end Sys2Proof.Machine
end

