-- ==== Sys2Proof/Machine/Flags.lean ====
section
/-! DEFINITION. The status bits, the interrupt line, and the control registers as the host reads and writes them
(spec/10_state.md R23 to R43). -/

namespace Sys2Proof.Machine

/-- The named control registers of the map R23. -/
inductive Csr where
  | id
  | caps
  | maxdim
  | ctrl
  | cmd
  | status
  | errcode
  | errinfo
  | errarg
  | cfg
  | width
  | height
  | krows
  | kcols
  | tsize
  | outlen
  deriving DecidableEq, Repr

/-- The offset column of R23. -/
def csrOffset : Csr → Nat
  | .id => 0x00
  | .caps => 0x04
  | .maxdim => 0x08
  | .ctrl => 0x0C
  | .cmd => 0x10
  | .status => 0x14
  | .errcode => 0x18
  | .errinfo => 0x1C
  | .errarg => 0x20
  | .cfg => 0x24
  | .width => 0x28
  | .height => 0x2C
  | .krows => 0x30
  | .kcols => 0x34
  | .tsize => 0x38
  | .outlen => 0x3C

/-- The register at an offset of the CSR region; none at the reserved offsets 0x40 to 0xFC (R42). -/
def csrAt (off : Nat) : Option Csr :=
  [Csr.id, .caps, .maxdim, .ctrl, .cmd, .status, .errcode, .errinfo, .errarg, .cfg, .width, .height, .krows, .kcols,
    .tsize, .outlen].find? (fun c => csrOffset c == off)

/-- ID (R24). -/
def idWord : Word := 0x45324907#32

/-- CAPS: KR_MAX in bits 3:0, KC_MAX in 7:4, TMAX in 15:8, 31:16 zero (R25). -/
def capsWord (P : Params) : Word :=
  0#16 ++ BitVec.ofNat 8 P.tMax ++ BitVec.ofNat 4 P.kcMax ++ BitVec.ofNat 4 P.krMax

/-- MAXDIM: MAXW in bits 15:0, MAXH in 31:16 (R26). -/
def maxdimWord (P : Params) : Word := BitVec.ofNat 16 P.maxH ++ BitVec.ofNat 16 P.maxW

/-- STATUS as read: BUSY 0, DONE 1, ERR 2, WARN 3, BUSYWR 4, 31:5 zero (R27). -/
def State.statusWord (s : State) : Word :=
  0#27 ++ BitVec.ofBool s.busywr ++ BitVec.ofBool s.warn ++ BitVec.ofBool s.err ++ BitVec.ofBool s.done ++
    BitVec.ofBool s.busy

/-- CTRL as read: IRQEN in bit 0, 31:1 zero (R32). -/
def State.ctrlWord (s : State) : Word := 0#31 ++ BitVec.ofBool s.irqen

/-- CFG as read: MODE 1:0, BPP 5:4, PADMODE 9:8, EDTIE 12, every other bit zero (R37). -/
def State.cfgWord (s : State) : Word :=
  0#19 ++ BitVec.ofBool s.edtie ++ 0#2 ++ s.padmode ++ 0#2 ++ s.bpp ++ 0#2 ++ s.mode

/-- The value a host read of a control register returns (R23 to R41). CMD reads 0 (R33). -/
def State.csrRead (P : Params) (s : State) : Csr → Word
  | .id => idWord
  | .caps => capsWord P
  | .maxdim => maxdimWord P
  | .ctrl => s.ctrlWord
  | .cmd => 0#32
  | .status => s.statusWord
  | .errcode => s.errcode.setWidth 32
  | .errinfo => s.errinfo.setWidth 32
  | .errarg => s.errarg
  | .cfg => s.cfgWord
  | .width => s.width
  | .height => s.height
  | .krows => s.krows
  | .kcols => s.kcols
  | .tsize => s.tsize
  | .outlen => s.outlen

/-- A write of STATUS: each of DONE, ERR, WARN, BUSYWR is cleared where a 1 is written and kept where a 0 is; BUSY and
the reserved bits ignore the write (R27 to R31). -/
def State.clearStatus (v : Word) (s : State) : State :=
  { s with
    done := s.done && !v.getLsbD 1, err := s.err && !v.getLsbD 2, warn := s.warn && !v.getLsbD 3,
    busywr := s.busywr && !v.getLsbD 4 }

/-- A write of CFG: each field keeps its bits of the value, the reserved bits ignore the write (R37, R42). -/
def State.writeCfg (v : Word) (s : State) : State :=
  { s with
    mode := v.extractLsb' 0 2, bpp := v.extractLsb' 4 2, padmode := v.extractLsb' 8 2, edtie := v.getLsbD 12 }

/-- The effect of a completed host write of a control register while BUSY is 0 (R23 to R44). Read-only registers
ignore it; a write of CMD accepts a command (R33; spec/44_control_commands.md R170). -/
def State.csrWrite (s : State) (v : Word) : Csr → State
  | .id => s
  | .caps => s
  | .maxdim => s
  | .ctrl => { s with irqen := v.getLsbD 0 }
  | .cmd => s.accept v
  | .status => s.clearStatus v
  | .errcode => s
  | .errinfo => s
  | .errarg => s
  | .cfg => s.writeCfg v
  | .width => { s with width := v }
  | .height => { s with height := v }
  | .krows => { s with krows := v }
  | .kcols => { s with kcols := v }
  | .tsize => { s with tsize := v }
  | .outlen => s

/-- The interrupt output: `irq = csr.CTRL.IRQEN and csr.STATUS.DONE` (R43; spec/60_exceptions.md R196). It is computed,
not state. -/
def State.irq (s : State) : Bool := s.irqen && s.done

end Sys2Proof.Machine
end

