-- ==== Sys2Proof/Machine/Num.lean ====
section
/-! DEFINITION. The numeric type NUM of the error-diffusion engine: the record of operations the rules are written
against (spec/00_scope.md R12 to R14), IEEE 754 binary64 with roundTiesToEven, and exact rationals. -/

namespace Sys2Proof.Machine

/-- The NUM operations as a record (R13, R14): `num(k)`, the four arithmetic operations and the
comparisons of R13. `a >f b` is `a <f b` with its operands exchanged. -/
structure NumOps (α : Type) where
  /-- `num(k)`. -/
  num : Nat → α
  /-- `a +f b`. -/
  add : α → α → α
  /-- `a -f b`. -/
  sub : α → α → α
  /-- `a *f b`. -/
  mul : α → α → α
  /-- `a /f b`. -/
  div : α → α → α
  /-- `a <f b`. -/
  lt : α → α → Bool
  /-- `a ==f b`. -/
  eq : α → α → Bool
  /-- `a >=f b`. -/
  ge : α → α → Bool

/-- `a >f b` (R13). -/
def NumOps.gt {α : Type} (num : NumOps α) (a b : α) : Bool := num.lt b a

/-- HALF = num(1) /f num(2) (R13). -/
def NumOps.half {α : Type} (num : NumOps α) : α := num.div (num.num 1) (num.num 2)

/-! ## binary64

Layout: sign bit 63, exponent bits 62:52, fraction bits 51:0 (R13, spec/93_implementation_defined.md G1). Every finite
value is a whole number of units of 2^-1074, the least subnormal. What the operations compute is IEEE 754-2008
(R12, G2; PRESUMED, unsafe; log 8). -/

/-- The sign bit. -/
def f64Sign (b : F64) : Bool := b.msb

/-- The exponent and fraction fields as one number: it orders the magnitudes. -/
def f64Mag (b : F64) : Nat := (b.extractLsb' 0 63).toNat

/-- The magnitude field of an infinity. -/
def f64InfMag : Nat := 0x7FF0000000000000

/-- Not a number. -/
def f64IsNaN (b : F64) : Bool := f64InfMag < f64Mag b

/-- An infinity. -/
def f64IsInf (b : F64) : Bool := f64Mag b == f64InfMag

/-- `isfinite(a)` (R13). -/
def f64IsFinite (b : F64) : Bool := f64Mag b < f64InfMag

/-- The pattern with the given sign and magnitude field. -/
def f64OfMag (neg : Bool) (m : Nat) : F64 := BitVec.ofNat 64 (if neg then 2 ^ 63 + m else m)

/-- The NaN that an invalid operation gives. Which NaN is not observable (log 8). -/
def f64NaN : F64 := 0x7FF8000000000000#64

/-- The magnitude of a finite value in units of 2^-1074. -/
def f64Units (b : F64) : Nat :=
  if f64Mag b / 2 ^ 52 = 0 then f64Mag b else (2 ^ 52 + f64Mag b % 2 ^ 52) * 2 ^ (f64Mag b / 2 ^ 52 - 1)

/-- A finite value in units of 2^-1074. -/
def f64Int (b : F64) : Int := if f64Sign b then -(f64Units b : Int) else (f64Units b : Int)

/-- `p / q` to the nearest whole number, ties to even. -/
def roundTiesToEven (p q : Nat) : Nat :=
  if q < 2 * (p % q) ∨ (q = 2 * (p % q) ∧ (p / q) % 2 = 1) then p / q + 1 else p / q

/-- The exact magnitude `p / q`, in units of 2^-1074, rounded to binary64 with roundTiesToEven, subnormals kept (R12).
`sh` is the exponent above the least one: the rounded significand is below 2^53 + 1, and adding `sh` to the exponent
field carries a significand of 2^53 into the next exponent. -/
def f64Round (neg : Bool) (p q : Nat) : F64 :=
  let sh := Nat.log2 (p / q) - 52
  f64OfMag neg (min (roundTiesToEven p (q * 2 ^ sh) + sh * 2 ^ 52) f64InfMag)

/-- `num(k)` (R13). -/
def f64Num (k : Nat) : F64 := f64Round false (k * 2 ^ 1074) 1

/-- `a +f b` (R12). -/
def f64Add (a b : F64) : F64 :=
  if f64IsNaN a || f64IsNaN b then f64NaN
  else if f64IsInf a then (if f64IsInf b && (f64Sign a != f64Sign b) then f64NaN else a)
  else if f64IsInf b then b
  else if f64Int a + f64Int b = 0 then f64OfMag (f64Sign a && f64Sign b) 0
  else f64Round (f64Int a + f64Int b < 0) (f64Int a + f64Int b).natAbs 1

/-- The pattern with the other sign. -/
def f64Neg (a : F64) : F64 := a ^^^ 0x8000000000000000#64

/-- `a -f b` (R12). -/
def f64Sub (a b : F64) : F64 := f64Add a (f64Neg b)

/-- `a *f b` (R12). -/
def f64Mul (a b : F64) : F64 :=
  if f64IsNaN a || f64IsNaN b then f64NaN
  else if f64IsInf a || f64IsInf b then
    (if f64Mag a == 0 || f64Mag b == 0 then f64NaN else f64OfMag (f64Sign a != f64Sign b) f64InfMag)
  else f64Round (f64Sign a != f64Sign b) (f64Units a * f64Units b) (2 ^ 1074)

/-- `a /f b` (R12). -/
def f64Div (a b : F64) : F64 :=
  if f64IsNaN a || f64IsNaN b then f64NaN
  else if f64IsInf a then (if f64IsInf b then f64NaN else f64OfMag (f64Sign a != f64Sign b) f64InfMag)
  else if f64IsInf b then f64OfMag (f64Sign a != f64Sign b) 0
  else if f64Mag b == 0 then
    (if f64Mag a == 0 then f64NaN else f64OfMag (f64Sign a != f64Sign b) f64InfMag)
  else f64Round (f64Sign a != f64Sign b) (f64Units a * 2 ^ 1074) (f64Units b)

/-- A number in the order of the values that are not NaN: both zeros at 0. -/
def f64Key (a : F64) : Int := if f64Sign a then -(f64Mag a : Int) else (f64Mag a : Int)

/-- `a <f b`: false when either operand is a NaN (R13). -/
def f64Lt (a b : F64) : Bool := !f64IsNaN a && !f64IsNaN b && decide (f64Key a < f64Key b)

/-- `a ==f b`: false when either operand is a NaN, and +0 equals -0 (R13). -/
def f64Eq (a b : F64) : Bool := !f64IsNaN a && !f64IsNaN b && decide (f64Key a = f64Key b)

/-- `a >=f b`: false when either operand is a NaN, and -0 is not below +0 (R13). -/
def f64Ge (a b : F64) : Bool := !f64IsNaN a && !f64IsNaN b && decide (f64Key b ≤ f64Key a)

/-- The NUM record of the block: binary64 (R12). -/
def binary64 : NumOps F64 where
  num := f64Num
  add := f64Add
  sub := f64Sub
  mul := f64Mul
  div := f64Div
  lt := f64Lt
  eq := f64Eq
  ge := f64Ge

/-- Exact rationals: the record in which spec/40_error_diffusion.md R120, R122 and R123 state their properties. By R14
a machine built on it is a different machine: no command uses it. -/
def exactRational : NumOps ℚ where
  num := fun k => (k : ℚ)
  add := fun a b => a + b
  sub := fun a b => a - b
  mul := fun a b => a * b
  div := fun a b => a / b
  lt := fun a b => decide (a < b)
  eq := fun a b => decide (a = b)
  ge := fun a b => decide (b ≤ a)

end Sys2Proof.Machine
end

