-- ==== Sys2Proof/Machine/Checks.lean ====
section
/-! DEFINITION. The checks of spec/60_exceptions.md R191 and the sequence of each command (R192). -/

namespace Sys2Proof.Machine

/-- The checks of R191, by name. -/
inductive Chk where
  | mode
  | bpp
  | w
  | h
  | kc
  | kr
  | kw
  | t
  | pad
  | group
  | qrange
  deriving DecidableEq, Repr

/-- ERRINFO of an error about a control register: its offset (spec/10_state.md R35). -/
def csrInfo (c : Csr) : Byte := BitVec.ofNat 8 (csrOffset c)

/-- ERRINFO of an error about the content of a local memory (R35). -/
def memoryInfo : Byte := 0xFF#8

/-- A weight that CHK_KW rejects: not finite, or below 0.0. The weight -0.0 passes (R191). -/
def badWeight (w : F64) : Bool := !f64IsFinite w || f64Lt w (f64Num 0)

/-- The first cell of a list whose weight CHK_KW rejects, each weight read in turn. -/
def firstBadWeight (P : Params) (s : State) : List (Nat × Nat) → Nat → Option (Nat × Nat) × Nat
  | [], n => (none, n)
  | (r, c) :: rest, n =>
    if badWeight (readWeight P s r c n).1 then (some (r, c), (readWeight P s r c n).2)
    else firstBadWeight P s rest (readWeight P s r c n).2

/-- The least of `k` indices from `i` on whose QBUF value is above 1, each cell read in turn. -/
def firstOverOne (s : State) : Nat → Nat → Nat → Option Nat × Nat
  | 0, _, n => (none, n)
  | k + 1, i, n =>
    if 1 < (readQ s i n).1.toNat then (some i, (readQ s i n).2) else firstOverOne s k (i + 1) (readQ s i n).2

/-- CHK_MODE (R191). -/
def chkMode (s : State) : Option CmdError :=
  if s.MODE = 3 then some ⟨.invalidMode, csrInfo .cfg, BitVec.ofNat 32 s.MODE⟩ else none

/-- CHK_BPP (R191). -/
def chkBpp (s : State) : Option CmdError :=
  if s.BPP = 0 ∨ s.BPP = 3 then some ⟨.unsupportedBitDepth, csrInfo .cfg, BitVec.ofNat 32 s.BPP⟩ else none

/-- CHK_W (R191). -/
def chkW (P : Params) (s : State) : Option CmdError :=
  if s.W = 0 ∨ P.maxW < s.W then some ⟨.invalidBufferDimensions, csrInfo .width, s.width⟩ else none

/-- CHK_H (R191). -/
def chkH (P : Params) (s : State) : Option CmdError :=
  if s.H = 0 ∨ P.maxH < s.H then some ⟨.invalidBufferDimensions, csrInfo .height, s.height⟩ else none

/-- CHK_KC (R191). -/
def chkKc (P : Params) (s : State) : Option CmdError :=
  if s.KC % 2 = 0 ∨ P.kcMax < s.KC then some ⟨.invalidKernel, csrInfo .kcols, s.kcols⟩ else none

/-- CHK_KR (R191). -/
def chkKr (P : Params) (s : State) : Option CmdError :=
  if s.KR = 0 ∨ P.krMax < s.KR then some ⟨.invalidKernel, csrInfo .krows, s.krows⟩ else none

/-- CHK_KW (R191): the first bad applied cell in row-major order, as `r * KC_MAX + c`. -/
def chkKw (P : Params) (s : State) (n : Nat) : Option CmdError × Nat :=
  match firstBadWeight P s (appliedCells s.KR s.KC) n with
  | (some (r, c), n') => (some ⟨.invalidKernel, memoryInfo, BitVec.ofNat 32 (r * P.kcMax + c)⟩, n')
  | (none, n') => (none, n')

/-- CHK_T (R191). -/
def chkT (P : Params) (s : State) : Option CmdError :=
  if s.T = 0 ∨ P.tMax < s.T then some ⟨.invalidThresholdMatrix, csrInfo .tsize, s.tsize⟩ else none

/-- CHK_PAD (R191). -/
def chkPad (s : State) : Option CmdError :=
  if s.PAD = 3 then some ⟨.invalidPadMode, csrInfo .cfg, 3#32⟩ else none

/-- CHK_GROUP (R191). -/
def chkGroup (s : State) : Option CmdError :=
  if s.N % s.G ≠ 0 ∧ s.PAD = 0 then some ⟨.incompletePackGroup, csrInfo .cfg, BitVec.ofNat 32 s.N⟩ else none

/-- CHK_QRANGE (R191): the least index whose value is above 1. -/
def chkQrange (s : State) (n : Nat) : Option CmdError × Nat :=
  if s.BPP = 1 then
    match firstOverOne s s.N 0 n with
    | (some i, n') => (some ⟨.qvalueRange, memoryInfo, BitVec.ofNat 32 i⟩, n')
    | (none, n') => (none, n')
  else (none, n)

/-- Run one check: the error it raises, if it fails, and the count of free values drawn. A check reads control
registers, KMEM and QBUF, and writes nothing (R192). -/
def runChk (P : Params) (s : State) (n : Nat) : Chk → Option CmdError × Nat
  | .mode => (chkMode s, n)
  | .bpp => (chkBpp s, n)
  | .w => (chkW P s, n)
  | .h => (chkH P s, n)
  | .kc => (chkKc P s, n)
  | .kr => (chkKr P s, n)
  | .kw => chkKw P s n
  | .t => (chkT P s, n)
  | .pad => (chkPad s, n)
  | .group => (chkGroup s, n)
  | .qrange => chkQrange s n

/-- The checks of the conversion that PROCESS runs (R192). -/
def conversionChecks (s : State) : List Chk :=
  if s.MODE = 1 then [.kc, .kr, .kw] else if s.MODE = 2 then [.t] else []

/-- SEQUENCE(cmd): the row of R192. -/
def checkSequence (s : State) : Instr → List Chk
  | .nop => []
  | .diffuse => [.bpp, .w, .h, .kc, .kr, .kw]
  | .ordered => [.bpp, .w, .h, .t]
  | .quantize => [.bpp, .w, .h]
  | .pack => [.bpp, .w, .h, .pad, .group, .qrange]
  | .process => [.mode, .bpp, .w, .h] ++ conversionChecks s ++ [.pad, .group]
  | .softreset => []

/-- Run checks left to right: the error of the first that fails; later checks are not evaluated (R192). -/
def runChecks (P : Params) (s : State) : List Chk → Nat → Option CmdError × Nat
  | [], n => (none, n)
  | c :: cs, n =>
    match runChk P s n c with
    | (some e, n') => (some e, n')
    | (none, n') => runChecks P s cs n'

/-- `validate(cmd)` of R192. -/
def validate (P : Params) (i : Instr) (s : State) : Option CmdError × Nat :=
  runChecks P s (checkSequence s i) s.fresh

/-- `validate(cmd)`, then the command's work: an error ends the command with nothing written but what `raise` records
(R10, R174). The free values the checks drew are counted. -/
def State.guarded (P : Params) (i : Instr) (work : State → State) (s : State) : State :=
  match validate P i s with
  | (some e, n) => (s.withFresh n).raise e
  | (none, n) => work (s.withFresh n)

end Sys2Proof.Machine
end

