-- ==== Sys2Proof/Machine/Diffuse.lean ====
section
/-! DEFINITION. The error-diffusion engine: DIFFUSE (spec/40_error_diffusion.md). The scan is written against the NUM
record of spec/00_scope.md R14; the block runs it on binary64. -/

namespace Sys2Proof.Machine

/-- A weight of the kernel with its cell (R111). -/
structure Tap (α : Type) where
  row : Nat
  col : Nat
  weight : α
  deriving DecidableEq, Repr

/-- Normalisation: `num(p) /f num(255)` (R112). -/
def normalise {α : Type} (num : NumOps α) (p : Byte) : α := num.div (num.num p.toNat) (num.num 255)

/-- `round01(v, TIE)`: 1 above HALF, TIE at HALF, 0 otherwise and for every NaN (R113). -/
def round01 {α : Type} (num : NumOps α) (v : α) (tie : Bool) : Bool :=
  if num.gt v num.half then true else if num.eq v num.half then tie else false

/-- The residual error `e = v -f num(b)` (R114). -/
def residual {α : Type} (num : NumOps α) (v : α) (b : Bool) : α := num.sub v (num.num b.toNat)

/-- The pixel that cell (r, c) of the kernel sends error to from pixel (y, x): none where it is outside the image
(R111, R116). `tx = x + c - mid` is signed: it is not negative exactly when `mid <= x + c`. -/
def tapTarget (W H mid y x r c : Nat) : Option Nat :=
  if y + r < H ∧ mid ≤ x + c ∧ x + c - mid < W then some ((y + r) * W + (x + c - mid)) else none

/-- Send the error of one pixel to the targets of the taps, in order: `ACC[t] <- ACC[t] +f (e *f w)` (R115). -/
def spread {α : Type} (num : NumOps α) (W H mid y x : Nat) (e : α) : List (Tap α) → List α → List α
  | [], acc => acc
  | t :: ts, acc =>
    match tapTarget W H mid y x t.row t.col with
    | some i => spread num W H mid y x e ts (acc.modify i (fun a => num.add a (num.mul e t.weight)))
    | none => spread num W H mid y x e ts acc

/-- Scan `k` pixels from index `i` in raster order (R11, R115), with ACC as it stands: the sample of each pixel when it
is visited, and what it is rounded to. Pixel i is at row i div W, column i mod W. -/
def scan {α : Type} (num : NumOps α) (W H mid : Nat) (taps : List (Tap α)) (tie : Bool) :
    Nat → Nat → List α → List (α × Bool)
  | 0, _, _ => []
  | k + 1, i, acc =>
    (acc.getD i (num.num 0), round01 num (acc.getD i (num.num 0)) tie) ::
      scan num W H mid taps tie k (i + 1)
        (spread num W H mid (i / W) (i % W)
          (residual num (acc.getD i (num.num 0)) (round01 num (acc.getD i (num.num 0)) tie)) taps acc)

/-- Error diffusion of a W by H image: the rounded samples in raster order (R110 to R116). -/
def diffusePixels {α : Type} (num : NumOps α) (W H mid : Nat) (taps : List (Tap α)) (tie : Bool)
    (pixels : List Byte) : List (α × Bool) :=
  scan num W H mid taps tie (W * H) 0 (pixels.map (normalise num))

/-- Read the weights of a list of kernel cells, each once (R110). -/
def readTaps (P : Params) (s : State) : List (Nat × Nat) → Nat → List (Tap F64) × Nat
  | [], n => ([], n)
  | (r, c) :: rest, n =>
    (⟨r, c, (readWeight P s r c n).1⟩ :: (readTaps P s rest (readWeight P s r c n).2).1,
      (readTaps P s rest (readWeight P s r c n).2).2)

/-- The values DIFFUSE writes to QBUF[0..N-1], and the count of free values drawn: the weights are read first, then PIX
(R110); a pixel rounded to b gives b * L1 (R117). -/
def diffuseValues (P : Params) (s : State) : List QVal × Nat :=
  let taps := readTaps P s (appliedCells s.KR s.KC) s.fresh
  let pixels := Mem.readRange Config.freeByte s.pix s.N 0 taps.2
  ((diffusePixels binary64 s.W s.H s.mid taps.1 s.TIE pixels.1).map (fun vb => s.bilevel vb.2), pixels.2)

/-- The body of DIFFUSE between validate and complete (R110). ACC lives only here (spec/10_state.md R52). -/
def State.diffuseBody (P : Params) (s : State) : State :=
  (s.withFresh (diffuseValues P s).2).withQbuf (Mem.overlay (diffuseValues P s).1 s.qbuf)

/-- DIFFUSE (R110) in a build: validate, diffuse, complete. -/
def diffuseOn (P : Params) (s : State) : Host.Outcome State Fault Refusal :=
  .next (s.guarded P .diffuse (fun s' => (s'.diffuseBody P).completeOk false))

/-- DIFFUSE of the default build. -/
def execDiffuse (s : State) : Host.Outcome State Fault Refusal := diffuseOn Config.params s

end Sys2Proof.Machine
end

