-- ==== Sys2Proof/Machine/Ordered.lean ====
section
/-! DEFINITION. The ordered-dither engine: ORDERED (spec/41_ordered_dither.md). -/

namespace Sys2Proof.Machine

/-- The bilevel result of one pixel: 1 exactly when the intensity exceeds the threshold, both unsigned (R133). -/
def exceeds (p t : Byte) : Bool := decide (t.toNat < p.toNat)

/-- The values ORDERED gives `k` pixels from index `i`: the threshold TMEM[y mod T][x mod T] (R132), then the pixel, are
read for each in turn (R130). -/
def orderedFrom (P : Params) (s : State) : Nat → Nat → Nat → List QVal × Nat
  | 0, _, n => ([], n)
  | k + 1, i, n =>
    let t := readThreshold P s (i / s.W % s.T) (i % s.W % s.T) n
    let p := readPixel s i t.2
    let rest := orderedFrom P s k (i + 1) p.2
    (s.bilevel (exceeds p.1 t.1) :: rest.1, rest.2)

/-- The loop of ORDERED between validate and complete (R130). -/
def State.orderedBody (P : Params) (s : State) : State :=
  (s.withFresh (orderedFrom P s s.N 0 s.fresh).2).withQbuf (Mem.overlay (orderedFrom P s s.N 0 s.fresh).1 s.qbuf)

/-- ORDERED (R130) in a build: validate, dither, complete. -/
def orderedOn (P : Params) (s : State) : Host.Outcome State Fault Refusal :=
  .next (s.guarded P .ordered (fun s' => (s'.orderedBody P).completeOk false))

/-- ORDERED of the default build. -/
def execOrdered (s : State) : Host.Outcome State Fault Refusal := orderedOn Config.params s

end Sys2Proof.Machine
end

