-- ==== Sys2Proof/Machine/Pack.lean ====
section
/-! DEFINITION. The bit packer: PACK (spec/43_bit_packer.md). -/

namespace Sys2Proof.Machine

/-- The field of a value: inverted against its width at BPP 2, as it is at BPP 1 (R153). -/
def packField (bpp : Nat) (v : QVal) : QVal := if bpp = 2 then v ^^^ 3#2 else v

/-- Byte `k` of the packed record, from the values of pixels 0, 1, … and the pad value past them: pixel j of the group
is shifted to bits 7 - BPP*j down to 8 - BPP*(j+1) (R151, R152). -/
def packByte (bpp : Nat) (pad : QVal) (values : List QVal) (k : Nat) : Byte :=
  (List.range (8 / bpp)).foldl
    (fun byte j => byte ||| ((packField bpp (values.getD (k * (8 / bpp) + j) pad)).setWidth 8 <<< (8 - bpp * (j + 1))))
    0#8

/-- `nb`: the number of bytes of the record (R155, R156). -/
def State.packedBytes (s : State) : Nat := s.N / s.G + if s.N % s.G ≠ 0 ∧ s.PAD = 1 then 1 else 0

/-- `REM != 0`: a final partial group is padded or truncated (R155). -/
def State.packWarns (s : State) : Bool := decide (s.N % s.G ≠ 0)

/-- The values packed: QBUF[i] for the indices below N that lie in the bytes written, and the count of free values
drawn (R150). -/
def packedValues (s : State) : List QVal × Nat :=
  Mem.readRange Config.freeQ s.qbuf (min s.N (s.packedBytes * s.G)) 0 s.fresh

/-- The bytes of the packed record (R150). -/
def packedRecord (s : State) : List Byte :=
  (List.range s.packedBytes).map (packByte s.BPP s.L1 (packedValues s).1)

/-- PACK_CORE: OUT[0 .. nb-1] and OUTLEN (R150, R156). The warning it returns is `packWarns`, which it leaves as it
was. -/
def State.packCore (s : State) : State :=
  ((s.withFresh (packedValues s).2).withOut (Mem.overlay (packedRecord s) s.out)).withOutlen
    (BitVec.ofNat 32 s.packedBytes)

/-- PACK (R150) in a build: validate, pack, complete. -/
def packOn (P : Params) (s : State) : Host.Outcome State Fault Refusal :=
  .next (s.guarded P .pack (fun s' => s'.packCore.completeOk s'.packWarns))

/-- PACK of the default build. -/
def execPack (s : State) : Host.Outcome State Fault Refusal := packOn Config.params s

/-- UNPACK of R157: a specification function, no command of the block. `record` is OUT, `i` the pixel. -/
def unpackValue (bpp : Nat) (record : Nat → Byte) (i : Nat) : Byte :=
  ((record (i / (8 / bpp)) >>> (8 - bpp * (i % (8 / bpp) + 1))) &&& BitVec.ofNat 8 (2 ^ bpp - 1)) ^^^
    (if bpp = 2 then 3#8 else 0#8)

end Sys2Proof.Machine
end

