-- ==== Sys2Proof/Machine/Quantize.lean ====
section
/-! DEFINITION. The quantizer and its palette look-up: QUANTIZE (spec/42_quantizer.md). -/

namespace Sys2Proof.Machine

/-- `PALETTE_LUT(BPP, p) = p >> (8 - BPP)`: the top BPP bits of p, a cell of QBUF (R141). -/
def paletteLut (bpp : Nat) (p : Byte) : QVal := BitVec.ofNat 2 (p.toNat >>> (8 - bpp))

/-- The values QUANTIZE writes to QBUF[0..N-1], and the count of free values drawn (R140). -/
def quantizeValues (s : State) : List QVal × Nat :=
  ((Mem.readRange Config.freeByte s.pix s.N 0 s.fresh).1.map (paletteLut s.BPP),
    (Mem.readRange Config.freeByte s.pix s.N 0 s.fresh).2)

/-- The loop of QUANTIZE between validate and complete (R140). -/
def State.quantizeBody (s : State) : State :=
  (s.withFresh (quantizeValues s).2).withQbuf (Mem.overlay (quantizeValues s).1 s.qbuf)

/-- QUANTIZE (R140) in a build: validate, quantize, complete. -/
def quantizeOn (P : Params) (s : State) : Host.Outcome State Fault Refusal :=
  .next (s.guarded P .quantize (fun s' => s'.quantizeBody.completeOk false))

/-- QUANTIZE of the default build. -/
def execQuantize (s : State) : Host.Outcome State Fault Refusal := quantizeOn Config.params s

end Sys2Proof.Machine
end

