-- ==== Sys2Proof/Machine/Control.lean ====
section
/-! DEFINITION. The commands NOP, PROCESS and SOFTRESET, and hardware reset (spec/44_control_commands.md,
spec/70_reset_and_hazards.md). -/

namespace Sys2Proof.Machine

/-- NOP (R176): complete with no effect. -/
def execNop (s : State) : Host.Outcome State Fault Refusal := .next (s.completeOk false)

/-- The conversion MODE selects (R177). MODE 3 does not get here: CHK_MODE rejects it. -/
def State.convert (P : Params) (s : State) : State :=
  match s.MODE with
  | 0 => s.quantizeBody
  | 1 => s.diffuseBody P
  | 2 => s.orderedBody P
  | _ => s

/-- PROCESS (R177) in a build: validate everything, convert, pack, complete. -/
def processOn (P : Params) (s : State) : Host.Outcome State Fault Refusal :=
  .next (s.guarded P .process (fun s' => (s'.convert P).packCore.completeOk s'.packWarns))

/-- PROCESS of the default build. -/
def execProcess (s : State) : Host.Outcome State Fault Refusal := processOn Config.params s

/-- SOFTRESET (R180): every control register to its reset value, then completion. Memories are kept. -/
def execSoftreset (s : State) : Host.Outcome State Fault Refusal := .next (s.clearConfig.completeOk false)

/-- An illegal command word completes with ILLEGAL_COMMAND, ERRINFO 0x10 and the word (R94, R173). -/
def State.illegalCommand (w : Word) (s : State) : State := s.raise ⟨.illegalCommand, csrInfo .cmd, w⟩

/-- The cells a command would write become unwritten: QBUF[0..N-1] for a conversion, OUT[0..nb-1] for PACK, both for
PROCESS (R222). A command that a check would reject writes no cell, and none is lost (log 12). -/
def State.abandon (P : Params) (i : Instr) (s : State) : State :=
  match validate P i s with
  | (some _, n) => s.withFresh n
  | (none, n) =>
    match i with
    | .nop => s.withFresh n
    | .diffuse => (s.withFresh n).withQbuf (Mem.unwrite s.N s.qbuf)
    | .ordered => (s.withFresh n).withQbuf (Mem.unwrite s.N s.qbuf)
    | .quantize => (s.withFresh n).withQbuf (Mem.unwrite s.N s.qbuf)
    | .pack => (s.withFresh n).withOut (Mem.unwrite s.packedBytes s.out)
    | .process =>
      ((s.withFresh n).withQbuf (Mem.unwrite s.N s.qbuf)).withOut (Mem.unwrite s.packedBytes s.out)
    | .softreset => s.withFresh n

end Sys2Proof.Machine
end

