-- ==== Sys2Proof/Machine/Dispatch.lean ====
section
/-! DEFINITION. One arm per command (spec/44_control_commands.md R173). -/

namespace Sys2Proof.Machine

def exec (i : Instr) (s : State) : Host.Outcome State Fault Refusal :=
  match i with
  | .nop => Sys2Proof.Machine.execNop s
  | .diffuse => Sys2Proof.Machine.execDiffuse s
  | .ordered => Sys2Proof.Machine.execOrdered s
  | .quantize => Sys2Proof.Machine.execQuantize s
  | .pack => Sys2Proof.Machine.execPack s
  | .process => Sys2Proof.Machine.execProcess s
  | .softreset => Sys2Proof.Machine.execSoftreset s

end Sys2Proof.Machine
end

