-- ==== Sys2Proof/Decode.lean ====
section
/-! DEFINITION. Decoding and encoding of command words (spec/30_encoding.md R90 to R94). -/

namespace Sys2Proof

/-- Why a command word or a run of bytes is no command. -/
inductive DecodeError where
  /-- Fewer than the four bytes of a command word (R91). -/
  | truncated (bytes : Nat)
  /-- A bit of RSV = word[31:4] is set (R90, R94). -/
  | reservedBits (w : Word)
  /-- OP = word[3:0] is 7 to 15 (R92, R94). -/
  | reservedOp (w : Word)
  deriving DecidableEq, Repr

/-- OP = word[3:0] (R90). -/
def wordOp (w : Word) : BitVec 4 := w.extractLsb' 0 4

/-- RSV = word[31:4] (R90). -/
def wordRsv (w : Word) : BitVec 28 := w.extractLsb' 4 28

/-- `decode` of R93, total on all 2^32 words: an illegal word is rejected by name. -/
def decodeWord (w : Word) : Except DecodeError Instr :=
  if wordRsv w ≠ 0#28 then .error (.reservedBits w)
  else match (wordOp w).toNat with
    | 0 => .ok .nop
    | 1 => .ok .diffuse
    | 2 => .ok .ordered
    | 3 => .ok .quantize
    | 4 => .ok .pack
    | 5 => .ok .process
    | 6 => .ok .softreset
    | _ => .error (.reservedOp w)

/-- The word whose bytes, lowest offset first, are the four given (little-endian, spec/20_memory.md R73). -/
def wordOfBytes (b0 b1 b2 b3 : Byte) : Word := b3 ++ b2 ++ b1 ++ b0

/-- Decode the first command of a run of bytes: one 32-bit word (R91), and the bytes after it. -/
def decode : List Byte → Except DecodeError (Instr × List Byte)
  | b0 :: b1 :: b2 :: b3 :: rest =>
    match decodeWord (wordOfBytes b0 b1 b2 b3) with
    | .ok i => .ok (i, rest)
    | .error e => .error e
  | short => .error (.truncated short.length)

/-- The command word of a command: the match column of R92. -/
def encode : Instr → Word
  | .nop => 0x00000000#32
  | .diffuse => 0x00000001#32
  | .ordered => 0x00000002#32
  | .quantize => 0x00000003#32
  | .pack => 0x00000004#32
  | .process => 0x00000005#32
  | .softreset => 0x00000006#32

/-- The four bytes of a word, lowest offset first (R73). -/
def bytesOfWord (w : Word) : List Byte :=
  [w.extractLsb' 0 8, w.extractLsb' 8 8, w.extractLsb' 16 8, w.extractLsb' 24 8]

/-- The bytes of a command's word, as the host writes them to CMD. -/
def encodeBytes (i : Instr) : List Byte := bytesOfWord (encode i)

/-- The word a table row of `nbits` bits stands for: every bit above them is 0. -/
def tableWord (nbits w : Nat) : Word := BitVec.ofNat 32 (w % 2 ^ nbits)

/-- What the decoder reads from an instruction whose bits are `w` (bit 0 the least significant of its only word). -/
def decodeTableWord (nbits w : Nat) : Option Instr :=
  match decode (bytesOfWord (tableWord nbits w)) with
  | .ok (i, _) => some i
  | .error _ => none

end Sys2Proof
end

