-- ==== Sys2Proof/Machine/Bus.lean ====
section
/-! DEFINITION. The host window: the address map, the accesses it admits, their effects (spec/20_memory.md), and the
reset input (spec/70_reset_and_hazards.md R220 to R222). -/

namespace Sys2Proof.Machine

/-- The regions of the window (R62). -/
inductive Region where
  | csr
  | kmem
  | tmem
  | pix
  | qbuf
  | out
  deriving DecidableEq, Repr

/-- The first offset of a region (R62). -/
def regionBase : Region → Nat
  | .csr => 0x000000
  | .kmem => 0x001000
  | .tmem => 0x002000
  | .pix => 0x400000
  | .qbuf => 0x800000
  | .out => 0xC00000

/-- The number of byte offsets of a region (R62). -/
def regionSize (P : Params) : Region → Nat
  | .csr => 0x100
  | .kmem => 8 * (P.krMax * P.kcMax)
  | .tmem => P.tMax * P.tMax
  | .pix => P.maxPix
  | .qbuf => P.maxPix
  | .out => P.outCap

/-- An offset lies in a region (R62). -/
def inRegion (P : Params) (off : Nat) (r : Region) : Bool :=
  decide (regionBase r ≤ off) && decide (off < regionBase r + regionSize P r)

/-- The region of an offset: none where it is unmapped (R62). -/
def regionAt (P : Params) (off : Nat) : Option Region :=
  [Region.csr, .kmem, .tmem, .pix, .qbuf, .out].find? (inRegion P off)

/-- The window offset of a host physical address: the block decodes no address outside its window (R61). -/
def windowOffset (base addr : Nat) : Option Offset :=
  if base ≤ addr ∧ addr - base ≤ 0xFFFFFF then some (BitVec.ofNat 24 (addr - base)) else none

/-- The region an access of `n` bytes at `off` reaches: none where R66 does not let it complete (misaligned, not wholly
in one region, or a CSR access of 1 or 2 bytes). -/
def accessRegion (P : Params) (off n : Nat) : Option Region :=
  match regionAt P off with
  | none => none
  | some r =>
    if off % n = 0 ∧ inRegion P (off + n - 1) r ∧ (r = .csr → n = 4) then some r else none

/-- The value of a register of the CSR region: reserved offsets read 0 (R63; spec/10_state.md R42). -/
def csrRegionRead (P : Params) (s : State) (off : Nat) : Word :=
  match csrAt off with
  | some c => s.csrRead P c
  | none => 0#32

/-- The effect of a write in the CSR region: reserved offsets ignore it (R63; spec/10_state.md R42). -/
def csrRegionWrite (s : State) (off : Nat) (v : Word) : State :=
  match csrAt off with
  | some c => s.csrWrite v c
  | none => s

/-- `n` bytes whose value the spec leaves open in every byte (R71, U7). -/
def freeBytes (n fresh : Nat) : List Byte × Nat := Mem.readRange Config.freeByte [] n 0 fresh

/-- The bytes a host read of a local memory returns, from index `i` of the region: QBUF cells zero-extended (R68), QBUF
and OUT unspecified while BUSY (R71). No byte is asked of the CSR region here: its registers are 32-bit cells (R73). -/
def regionBytes (s : State) (n i : Nat) : Region → List Byte × Nat
  | .csr => ([], s.fresh)
  | .kmem => Mem.readRange Config.freeByte s.kmem n i s.fresh
  | .tmem => Mem.readRange Config.freeByte s.tmem n i s.fresh
  | .pix => Mem.readRange Config.freeByte s.pix n i s.fresh
  | .qbuf =>
    if s.busy then freeBytes n s.fresh
    else
      ((Mem.readRange Config.freeQ s.qbuf n i s.fresh).1.map (fun q => q.setWidth 8),
        (Mem.readRange Config.freeQ s.qbuf n i s.fresh).2)
  | .out => if s.busy then freeBytes n s.fresh else Mem.readRange Config.freeByte s.out n i s.fresh

/-- `MemRead(off, n)` (R60, R63, R71, R72, R73): the response, and no other effect (R76) but the count of free values
drawn. -/
def State.busRead (P : Params) (off n : Nat) (s : State) : State :=
  match accessRegion P off n with
  | none => s.withReply .busError
  | some .csr => s.withReply (.data (csrRegionRead P s off))
  | some r =>
    (s.withFresh (regionBytes s n (off - regionBase r) r).2).withReply
      (.data (BitVec.ofNat 32 (natOfBytes (regionBytes s n (off - regionBase r) r).1)))

/-- Write bytes to a local memory from index `i` of its region: QBUF keeps bits 1:0 of each (R64 to R69, R73). -/
def State.writeRegion (s : State) (i : Nat) (bs : List Byte) : Region → State
  | .csr => s
  | .kmem => { s with kmem := Mem.writeRange s.kmem i bs }
  | .tmem => { s with tmem := Mem.writeRange s.tmem i bs }
  | .pix => { s with pix := Mem.writeRange s.pix i bs }
  | .qbuf => { s with qbuf := Mem.writeRange s.qbuf i (bs.map (fun b => b.setWidth 2)) }
  | .out => { s with out := Mem.writeRange s.out i bs }

/-- `MemWrite(off, n, v)`: refused with BusError by R72; dropped while BUSY but for BUSYWR (R70); otherwise the
register's write rule (R63) or the bytes of the memory (R73). -/
def State.busWrite (P : Params) (off n : Nat) (v : Word) (s : State) : State :=
  match accessRegion P off n with
  | none => s.withReply .busError
  | some r =>
    if s.busy then ({ s with busywr := true } : State).withReply .ok
    else
      match r with
      | .csr => (csrRegionWrite s off v).withReply .ok
      | r => (s.writeRegion (off - regionBase r) (bytesOf n v) r).withReply .ok

/-- `rst` (R220 to R222): a pending command is abandoned and the cells it would write become unwritten, then every
control register takes its reset value. Memories are kept otherwise. -/
def State.hardReset (P : Params) (s : State) : State :=
  match s.busy, s.pending with
  | true, some w =>
    match decodeWord w with
    | .ok i => (s.abandon P i).clearRegisters
    | .error _ => s.clearRegisters
  | _, _ => s.clearRegisters

end Sys2Proof.Machine
end

