-- ==== Sys2Proof/Machine/Turn.lean ====
section
/-! DEFINITION. The atomic steps of the block and its environment (spec/70_reset_and_hazards.md R231), for any build
parameters and for any function `run` that gives the commands their meanings. -/

namespace Sys2Proof.Machine

/-- The engine's step (spec/44_control_commands.md R171): while BUSY is 1 it executes `decode(PENDING)`; while BUSY is 0
the engine has no step and nothing changes (log 2). -/
def engineTurn (run : Instr → State → Host.Outcome State Fault Refusal) (s : State) :
    Host.Outcome State Fault Refusal :=
  match s.busy, s.pending with
  | false, _ => .next s
  | true, none => .fault .pendingMissing
  | true, some w =>
    match decodeWord w with
    | .ok i => run i s
    | .error _ => .next (s.illegalCommand w)

/-- One event of R231. -/
def eventTurn (P : Params) (run : Instr → State → Host.Outcome State Fault Refusal) (e : Event) (s : State) :
    Host.Outcome State Fault Refusal :=
  match e with
  | .read off n => .next (s.busRead P off.toNat n.bytes)
  | .write off n v => .next (s.busWrite P off.toNat n.bytes v)
  | .rst => .next (s.hardReset P)
  | .engine => engineTurn run s

/-- One step: the next event of the agenda; where the agenda is empty, the engine's turn (weak fairness, R232; log 1). -/
def turn (P : Params) (run : Instr → State → Host.Outcome State Fault Refusal) (s : State) :
    Host.Outcome State Fault Refusal :=
  match s.agenda with
  | [] => engineTurn run s
  | e :: rest => eventTurn P run e (s.withAgenda rest)

/-- The event that a host access at a physical address is for the block with this BLOCK_BASE: none outside its window
(spec/20_memory.md R61). -/
def accessEvent (P : Params) : Access → Option Event
  | .read addr n => (windowOffset P.blockBase addr).map (fun off => .read off n)
  | .write addr n v => (windowOffset P.blockBase addr).map (fun off => .write off n v)

/-- A host access at a physical address: the access at its offset; the block decodes no address outside its window and
nothing of it changes (R61). -/
def accessTurn (P : Params) (run : Instr → State → Host.Outcome State Fault Refusal) (a : Access) (s : State) :
    Host.Outcome State Fault Refusal :=
  match accessEvent P a with
  | some e => eventTurn P run e s
  | none => .next s

end Sys2Proof.Machine
end

