-- ==== Sys2Proof/Machine/Step.lean ====
section
/-! DEFINITION. One atomic step of the block of the default parameters and its environment
(spec/70_reset_and_hazards.md R231). -/

namespace Sys2Proof.Machine

/-- The engine's step (spec/44_control_commands.md R171). -/
def engineStep (s : State) : Host.Outcome State Fault Refusal := engineTurn exec s

/-- One event of R231. -/
def eventStep (e : Event) (s : State) : Host.Outcome State Fault Refusal := eventTurn Config.params exec e s

/-- A host access at a physical address (spec/20_memory.md R61). -/
def accessStep (a : Access) (s : State) : Host.Outcome State Fault Refusal := accessTurn Config.params exec a s

/-- One step: the next event of the agenda, or the engine's turn where it is empty. -/
def step (s : State) : Host.Outcome State Fault Refusal := turn Config.params exec s

/-- The state in which the command word `w` has just been accepted (spec/44_control_commands.md R170) and the very next
step is the engine's: PENDING is where the engine takes its command from (log 16). -/
def State.withFetchWord (s : State) (nbits w : Nat) : State := (s.withAgenda []).accept (tableWord nbits w)

end Sys2Proof.Machine
end

