-- ==== Sys2Proof/Machine/Build.lean ====
section
/-! DEFINITION. The block at any build parameters (spec/00_scope.md R6): its commands, its step, its machine. `exec`,
`step` and `core` are these at the defaults. -/

namespace Sys2Proof.Machine

/-- The meaning of a command in a build (spec/44_control_commands.md R173). -/
def commandOn (P : Params) (i : Instr) (s : State) : Host.Outcome State Fault Refusal :=
  match i with
  | .nop => execNop s
  | .diffuse => diffuseOn P s
  | .ordered => orderedOn P s
  | .quantize => quantizeOn P s
  | .pack => packOn P s
  | .process => processOn P s
  | .softreset => execSoftreset s

/-- One step of a build (spec/70_reset_and_hazards.md R231). -/
def stepOn (P : Params) (s : State) : Host.Outcome State Fault Refusal := turn P (commandOn P) s

/-- A host access at a physical address, to the window at the build's BLOCK_BASE (spec/20_memory.md R61). -/
def accessOn (P : Params) (a : Access) (s : State) : Host.Outcome State Fault Refusal :=
  accessTurn P (commandOn P) a s

/-- The machine of a build. The state after reset is the same in every build (spec/70_reset_and_hazards.md R220). -/
def coreOn (P : Params) : Host.Core where
  State := State
  Fault := Fault
  Refusal := Refusal
  step := stepOn P
  reset := State.reset

end Sys2Proof.Machine
end

