-- ==== Sys2Proof/Safety.lean ====
section
/-! DEFINITION. What counts as a safe state and a safe run, in the terms the claims use: the legal configurations of
each command, what a memory holds, and the invariant every step keeps. -/

namespace Sys2Proof.Machine

/-- BPP is 1 or 2: CHK_BPP passes (spec/60_exceptions.md R191). -/
abbrev State.DepthLegal (s : State) : Prop := s.BPP = 1 ∨ s.BPP = 2

/-- WIDTH and HEIGHT are in range: CHK_W and CHK_H pass (R191). -/
abbrev State.SizeLegal (P : Params) (s : State) : Prop := 1 ≤ s.W ∧ s.W ≤ P.maxW ∧ 1 ≤ s.H ∧ s.H ≤ P.maxH

/-- KCOLS and KROWS are in range: CHK_KC and CHK_KR pass (R191). -/
abbrev State.KernelShapeLegal (P : Params) (s : State) : Prop :=
  s.KC % 2 = 1 ∧ s.KC ≤ P.kcMax ∧ 1 ≤ s.KR ∧ s.KR ≤ P.krMax

/-- TSIZE is in range: CHK_T passes (R191). -/
abbrev State.ThresholdLegal (P : Params) (s : State) : Prop := 1 ≤ s.T ∧ s.T ≤ P.tMax

/-- PADMODE is assigned, and does not reject a partial group: CHK_PAD and CHK_GROUP pass (R191). -/
abbrev State.PackLegal (s : State) : Prop := s.PAD ≠ 3 ∧ (s.N % (8 / s.BPP) = 0 ∨ s.PAD ≠ 0)

/-- A weight that CHK_KW takes: finite and not below 0.0 (R191). -/
abbrev WeightLegal (w : F64) : Prop := f64IsFinite w = true ∧ f64Lt w (f64Num 0) = false

/-- KMEM[r][c] is written in all its bytes and holds the pattern `w` (spec/20_memory.md R64). -/
abbrev State.HoldsWeight (P : Params) (s : State) (r c : Nat) (w : F64) : Prop :=
  ∀ b < 8, Mem.cell s.kmem (8 * (r * P.kcMax + c) + b) = some (w.extractLsb' (8 * b) 8)

/-- Cell (r, c) of the kernel is applied (spec/40_error_diffusion.md R111). -/
abbrev State.AppliedCell (s : State) (r c : Nat) : Prop :=
  r < s.KR ∧ c < s.KC ∧ (1 ≤ r ∨ (r = 0 ∧ s.KC / 2 < c))

/-- Every applied cell of the kernel is written, with a weight CHK_KW takes: `w r c`. -/
abbrev State.KernelLegal (P : Params) (s : State) (w : Nat → Nat → F64) : Prop :=
  s.KernelShapeLegal P ∧ ∀ r c, s.AppliedCell r c → s.HoldsWeight P r c (w r c) ∧ WeightLegal (w r c)

/-- The kernel as the engine applies it, its cells in row-major order. -/
def State.kernelTaps (s : State) (w : Nat → Nat → F64) : List (Tap F64) :=
  (appliedCells s.KR s.KC).map (fun rc => ⟨rc.1, rc.2, w rc.1 rc.2⟩)

/-- QBUF[0..N-1] is written, with values the packer takes: 0 or 1 at BPP 1 (R191 CHK_QRANGE). -/
abbrev State.QbufLegal (s : State) : Prop :=
  ∀ i < s.N, ∃ q : QVal, Mem.cell s.qbuf i = some q ∧ (s.BPP = 1 → q.toNat ≤ 1)

/-- What a successful completion writes, and nothing else (spec/44_control_commands.md R172): the results are 0, DONE
is set, BUSY is cleared, PENDING holds nothing. -/
def State.completed (s : State) : State :=
  { s with
    errcode := 0#8, errinfo := 0#8, errarg := 0#32, done := true, busy := false, pending := none }

/-- What an error records, and nothing else (spec/60_exceptions.md R193). -/
def State.recordedError (code info : Byte) (arg : Word) (s : State) : State :=
  { s with
    errcode := code, errinfo := info, errarg := arg, err := true, done := true, busy := false, pending := none }

/-- The byte a local memory holds at a window offset: nothing where the cell is unwritten, where the offset is unmapped,
and in the CSR region (spec/20_memory.md R62 to R69). -/
def State.byteAt (P : Params) (s : State) (off : Nat) : Option Byte :=
  match regionAt P off with
  | some .kmem => Mem.cell s.kmem (off - regionBase .kmem)
  | some .tmem => Mem.cell s.tmem (off - regionBase .tmem)
  | some .pix => Mem.cell s.pix (off - regionBase .pix)
  | some .qbuf => (Mem.cell s.qbuf (off - regionBase .qbuf)).map (fun q => q.setWidth 8)
  | some .out => Mem.cell s.out (off - regionBase .out)
  | some .csr => none
  | none => none

/-- The invariant of every reachable state. -/
structure State.Inv (P : Params) (s : State) : Prop where
  /-- PENDING holds a word exactly while BUSY = 1 (spec/10_state.md R51). -/
  pending_iff_busy : s.pending.isSome = s.busy
  /-- DONE reads 0 while BUSY (R28; spec/20_memory.md R71). -/
  done_not_busy : s.busy = true → s.done = false
  /-- ERRCODE is a code of R190 (spec/93_implementation_defined.md U14). -/
  errcode_le : s.errcode.toNat ≤ 9
  /-- ERRINFO and ERRARG are 0 on success (R35, R36). -/
  success_context : s.errcode = 0#8 → s.errinfo = 0#8 ∧ s.errarg = 0#32
  /-- The packed record fits OUT (spec/43_bit_packer.md R156, R159). -/
  outlen_le : s.outlen.toNat ≤ P.outCap
  /-- The memories are in canonical form, and no cell outside their capacity is written (R45 to R49; spec/20_memory.md
  R77). -/
  pix_wf : Mem.Wf s.pix ∧ Mem.Below P.maxPix s.pix
  qbuf_wf : Mem.Wf s.qbuf ∧ Mem.Below P.maxPix s.qbuf
  out_wf : Mem.Wf s.out ∧ Mem.Below P.outCap s.out
  kmem_wf : Mem.Wf s.kmem ∧ Mem.Below (8 * (P.krMax * P.kcMax)) s.kmem
  tmem_wf : Mem.Wf s.tmem ∧ Mem.Below (P.tMax * P.tMax) s.tmem

/-- A step is safe from a state: it answers a next state (the machine neither faults nor refuses). -/
def State.StepsOn (s : State) : Prop := ∃ t, step s = .next t

end Sys2Proof.Machine
end

