-- ==== Sys2Proof/WellFormed.lean ====
section
/-! DEFINITION. The well-formedness checks: commands, command words, host accesses, parameters. -/

namespace Sys2Proof

/-- Every command is well formed: it has no operand that could be ill formed (spec/30_encoding.md R95). -/
def Instr.wf : Instr → Bool
  | .nop => true
  | .diffuse => true
  | .ordered => true
  | .quantize => true
  | .pack => true
  | .process => true
  | .softreset => true

/-- A command word is well formed when RSV = word[31:4] is zero (R90). -/
def wordReservedOk (w : Word) : Bool := w.extractLsb' 4 28 == 0#28

/-- A command word's OP = word[3:0] is assigned: 0 to 6 (R92). -/
def wordOpOk (w : Word) : Bool := (w.extractLsb' 0 4).toNat ≤ 6

/-- A 32-bit word that is the encoding of a command (R93): every other word is illegal (R94). -/
def wordWf (w : Word) : Bool := wordReservedOk w && wordOpOk w

/-- An event is well formed when the data of a write fits its width: `v` is an n-byte unsigned value
(spec/20_memory.md R60). -/
def Event.wf : Event → Bool
  | .read _ _ => true
  | .write _ n v => v.toNat < 2 ^ (8 * n.bytes)
  | .rst => true
  | .engine => true

/-- The constraints of spec/00_scope.md R6 on the build parameters, with the lower bounds KR_MAX >= 2 and TMAX >= 8
that hold the source's own sizes (R6, U16). The memories hold every image that the checks admit (R15: N <= MAXPIX;
spec/43_bit_packer.md R156) and fit their windows (R62; log 24). -/
def Params.wf (P : Params) : Bool :=
  (2 ≤ P.krMax && P.krMax ≤ 15) && (P.kcMax % 2 == 1 && P.kcMax ≤ 15) && (8 ≤ P.tMax && P.tMax ≤ 255) &&
  (1 ≤ P.maxW && P.maxW ≤ 65535) && (1 ≤ P.maxH && P.maxH ≤ 65535) &&
  (P.maxW * P.maxH ≤ P.maxPix && P.maxPix ≤ 0x400000) && ((P.maxPix + 3) / 4 ≤ P.outCap && P.outCap ≤ 0x400000) &&
  P.blockBase % 0x1000000 == 0

end Sys2Proof
end

