-- ==== Sys2Proof/Certificates/Slice0/Obligations.lean ====
section
/-! DEFINITION. The statements for the provers. Each formalises the rules of spec/ that its docstring names. -/

open Sys2Proof Sys2Proof.Machine

/-! ## Encoding -/

/-- R92: the seven command words, written out from the opcode map, decode to their commands, and OP 7 to 15 are
reserved. -/
def Obligations.CommandWordsDecode : Prop :=
  decodeWord 0x00000000#32 = .ok .nop ∧ decodeWord 0x00000001#32 = .ok .diffuse ∧
  decodeWord 0x00000002#32 = .ok .ordered ∧ decodeWord 0x00000003#32 = .ok .quantize ∧
  decodeWord 0x00000004#32 = .ok .pack ∧ decodeWord 0x00000005#32 = .ok .process ∧
  decodeWord 0x00000006#32 = .ok .softreset ∧
  ∀ op : BitVec 4, 7 ≤ op.toNat → decodeWord (op.setWidth 32) = .error (.reservedOp (op.setWidth 32))

/-- R93: decoding is exact on all 2^32 words: a word selects a command exactly when it is that command's word, so at
most one, and it is rejected, the word with it, exactly when its OP is 7 to 15 or a bit of 31:4 is set. -/
def Obligations.DecodeIsExact : Prop :=
  ∀ w : Word,
    (decodeWord w = .ok .nop ↔ w = 0x0#32) ∧ (decodeWord w = .ok .diffuse ↔ w = 0x1#32) ∧
    (decodeWord w = .ok .ordered ↔ w = 0x2#32) ∧ (decodeWord w = .ok .quantize ↔ w = 0x3#32) ∧
    (decodeWord w = .ok .pack ↔ w = 0x4#32) ∧ (decodeWord w = .ok .process ↔ w = 0x5#32) ∧
    (decodeWord w = .ok .softreset ↔ w = 0x6#32) ∧
    ((decodeWord w = .error (.reservedBits w) ∨ decodeWord w = .error (.reservedOp w)) ↔
      (7 ≤ w.toNat % 16 ∨ w.toNat / 16 ≠ 0))

/-- R91, R93: decode and encode agree for every well-formed command, over the bytes as the host stores them, and the
bytes after the command are left. -/
def Obligations.DecodeEncodeAgree : Prop :=
  ∀ (i : Instr) (rest : List Byte), i.wf = true → decode (encodeBytes i ++ rest) = .ok (i, rest)

/-! ## The engine's step -/

/-- R171, R173: where the engine moves and PENDING decodes to a well-formed command, the step is that command's meaning:
at the state itself when no event is to come, and after the engine's event is taken from the agenda when it is the
next one (log 1). The block has no program counter: nothing is added around `exec`. The same holds of the block at any
build parameters (R6), and the block of the default parameters is `step`. -/
def Obligations.StepRunsDecodedCommand : Prop :=
  ∀ (s : State) (w : Word) (i : Instr), s.busy = true → s.pending = some w → decodeWord w = .ok i → i.wf = true →
    (s.agenda = [] → step s = exec i s) ∧
    (∀ rest, s.agenda = .engine :: rest → step s = exec i (s.withAgenda rest)) ∧
    stepOn Config.params s = step s ∧
    ∀ P : Params,
      (s.agenda = [] → stepOn P s = commandOn P i s) ∧
      ∀ rest, s.agenda = .engine :: rest → stepOn P s = commandOn P i (s.withAgenda rest)

/-- R171: while BUSY is 0 the engine has no step: its turn changes nothing but the agenda (log 2). -/
def Obligations.IdleEngineChangesNothing : Prop :=
  ∀ s : State, s.busy = false →
    (s.agenda = [] → step s = .next s) ∧
    ∀ rest, s.agenda = .engine :: rest → step s = .next { s with agenda := rest }

/-- R94: every word that decodes as Illegal completes with ILLEGAL_COMMAND, ERRINFO 0x10 and ERRARG the word, changing
nothing else, whether the engine moves because no event is to come or because its turn is the next event (log 1). -/
def Obligations.IllegalWordCompletesWithError : Prop :=
  ∀ (s : State) (w : Word), s.busy = true → s.pending = some w → (7 ≤ w.toNat % 16 ∨ w.toNat / 16 ≠ 0) →
    (s.agenda = [] → step s = .next (s.recordedError 7#8 0x10#8 w)) ∧
    ∀ rest, s.agenda = .engine :: rest → step s = .next ((s.withAgenda rest).recordedError 7#8 0x10#8 w)

/-! ## NOP and SOFTRESET -/

/-- R176: the word 0 is NOP, and NOP completes with no effect, from every state: the results are 0, DONE is set, BUSY
is cleared, and the sticky bits and all else are as before. -/
def Obligations.NopCompletes : Prop :=
  decodeWord 0x00000000#32 = .ok .nop ∧ ∀ s : State, exec .nop s = .next s.completed

/-- R180: SOFTRESET sets every control register to its reset value and completes, memories kept, from every state. -/
def Obligations.SoftresetClearsRegisters : Prop :=
  ∀ s : State, exec .softreset s =
    .next { State.reset with
      done := true, pix := s.pix, qbuf := s.qbuf, out := s.out, kmem := s.kmem, tmem := s.tmem, fresh := s.fresh,
      agenda := s.agenda, reply := s.reply }

/-! ## QUANTIZE -/

/-- R140, R141: QUANTIZE with a legal depth and size completes. Each cell below N holds the top BPP bits of its pixel
(an unwritten pixel is read as some value p); every cell from N on, and every other part of the state but the
completion's, is as before. -/
def Obligations.QuantizeResult : Prop :=
  ∀ s : State, s.DepthLegal → s.SizeLegal Config.params →
    ∃ t, exec .quantize s = .next t ∧ t = { s.completed with qbuf := t.qbuf, fresh := t.fresh } ∧
      (∀ i < s.N, ∃ (p : Byte) (q : QVal), (∀ b, Mem.cell s.pix i = some b → p = b) ∧
        Mem.cell t.qbuf i = some q ∧ q.toNat = p.toNat / 2 ^ (8 - s.BPP)) ∧
      ∀ i, s.N ≤ i → Mem.cell t.qbuf i = Mem.cell s.qbuf i

/-- R142: both readings of equal-width bins give the palette look-up, at both depths, on every intensity. -/
def Obligations.PaletteIsEqualWidthBins : Prop :=
  ∀ p : Byte, ∀ bpp, bpp = 1 ∨ bpp = 2 →
    (paletteLut bpp p).toNat = p.toNat * 2 ^ bpp / 256 ∧
    (paletteLut bpp p).toNat = min (p.toNat * 2 ^ bpp / 255) (2 ^ bpp - 1) ∧
    (paletteLut bpp p).toNat = p.toNat >>> (8 - bpp)

/-! ## ORDERED -/

/-- R130, R132, R133, R134: ORDERED with a legal depth, size and matrix side completes. Each cell below N is L1 exactly
when its pixel exceeds the threshold TMEM[y mod T][x mod T], else 0; the rest of the state is as before. -/
def Obligations.OrderedResult : Prop :=
  ∀ s : State, s.DepthLegal → s.SizeLegal Config.params → s.ThresholdLegal Config.params →
    ∃ t, exec .ordered s = .next t ∧ t = { s.completed with qbuf := t.qbuf, fresh := t.fresh } ∧
      (∀ i < s.N, ∃ p th : Byte, (∀ b, Mem.cell s.pix i = some b → p = b) ∧
        (∀ b, Mem.cell s.tmem (i / s.W % s.T * Config.params.tMax + i % s.W % s.T) = some b → th = b) ∧
        Mem.cell t.qbuf i = some (if th.toNat < p.toNat then BitVec.ofNat 2 (2 ^ s.BPP - 1) else 0#2)) ∧
      ∀ i, s.N ≤ i → Mem.cell t.qbuf i = Mem.cell s.qbuf i

/-! ## DIFFUSE -/

/-- R110 to R117: DIFFUSE with a legal depth, size and kernel completes, whatever the pixels. Each cell below N is L1
where the binary64 scan of the pixels rounds the sample to 1, else 0; the rest of the state is as before. -/
def Obligations.DiffuseResult : Prop :=
  ∀ (s : State) (w : Nat → Nat → F64), s.DepthLegal → s.SizeLegal Config.params → s.KernelLegal Config.params w →
    ∃ (t : State) (px : List Byte),
      exec .diffuse s = .next t ∧ t = { s.completed with qbuf := t.qbuf, fresh := t.fresh } ∧
      px.length = s.N ∧ (∀ i < s.N, ∀ b, Mem.cell s.pix i = some b → px[i]? = some b) ∧
      (∀ i < s.N, ∃ (v : F64) (b : Bool),
        (diffusePixels binary64 s.W s.H (s.KC / 2) (s.kernelTaps w) s.edtie px)[i]? = some (v, b) ∧
        Mem.cell t.qbuf i = some (if b then BitVec.ofNat 2 (2 ^ s.BPP - 1) else 0#2)) ∧
      ∀ i, s.N ≤ i → Mem.cell t.qbuf i = Mem.cell s.qbuf i

/-- R117, R191: whatever the kernel memory holds, written or not, DIFFUSE with a legal depth, size and kernel shape
either completes with every cell below N at 0 or L1, or reports INVALID_KERNEL about the memory and writes no cell. -/
def Obligations.DiffuseExtremesOrKernelError : Prop :=
  ∀ s : State, s.DepthLegal → s.SizeLegal Config.params → s.KernelShapeLegal Config.params →
    ∃ t, exec .diffuse s = .next t ∧
      ((t = { s.completed with qbuf := t.qbuf, fresh := t.fresh } ∧
          (∀ i < s.N, Mem.cell t.qbuf i = some 0#2 ∨ Mem.cell t.qbuf i = some (BitVec.ofNat 2 (2 ^ s.BPP - 1))) ∧
          ∀ i, s.N ≤ i → Mem.cell t.qbuf i = Mem.cell s.qbuf i) ∨
        ∃ r c, s.AppliedCell r c ∧
          t = { s.recordedError 1#8 0xFF#8 (BitVec.ofNat 32 (r * Config.params.kcMax + c)) with fresh := t.fresh })

/-- R121, first two rows: an image of 0s gives 0s and an image of 255s gives L1s, by DIFFUSE in binary64 with any kernel
that passes the checks. -/
def Obligations.DiffuseUniformExtremes : Prop :=
  ∀ (s : State) (w : Nat → Nat → F64), s.DepthLegal → s.SizeLegal Config.params → s.KernelLegal Config.params w →
    ∃ t, exec .diffuse s = .next t ∧
      ((∀ i < s.N, Mem.cell s.pix i = some 0#8) → ∀ i < s.N, Mem.cell t.qbuf i = some 0#2) ∧
      ((∀ i < s.N, Mem.cell s.pix i = some 255#8) →
        ∀ i < s.N, Mem.cell t.qbuf i = some (BitVec.ofNat 2 (2 ^ s.BPP - 1)))

/-- R115: scattering errors forward is the left fold of R115. The sample of pixel j when it is visited is its normalised
intensity with the contributions of the earlier pixels added in source order, in every NUM record. R113: its bit is 1
above HALF, the tie field at HALF, and 0 otherwise; so in binary64 a NaN gives 0, +inf gives 1 and -inf gives 0, and the
sample 0.5 gives the tie field. -/
def Obligations.SampleIsFoldOfContributions : Prop :=
  (∀ (α : Type) (num : NumOps α) (W H mid : Nat) (taps : List (Tap α)) (tie : Bool) (px : List Byte),
    px.length = W * H → ∀ j < W * H, ∃ (out : List (α × Bool)) (p : Byte) (v : α) (b : Bool),
      out = diffusePixels num W H mid taps tie px ∧ out.length = W * H ∧ px[j]? = some p ∧ out[j]? = some (v, b) ∧
      b = (if num.lt (num.div (num.num 1) (num.num 2)) v then true
        else if num.eq v (num.div (num.num 1) (num.num 2)) then tie else false) ∧
      v = (out.zipIdx.take j).foldl
        (fun acc src => taps.foldl
          (fun acc t =>
            if tapTarget W H mid (src.2 / W) (src.2 % W) t.row t.col = some j
            then num.add acc (num.mul (num.sub src.1.1 (num.num src.1.2.toNat)) t.weight) else acc) acc)
        (num.div (num.num p.toNat) (num.num 255))) ∧
  ∀ tie : Bool,
    (∀ v : F64, 0x7FF0000000000000 < v.toNat % 2 ^ 63 → round01 binary64 v tie = false) ∧
    round01 binary64 0x7FF0000000000000#64 tie = true ∧ round01 binary64 0xFFF0000000000000#64 tie = false ∧
    round01 binary64 0x3FE0000000000000#64 tie = tie

/-- R111, R116: an applied kernel cell reaches only a pixel of the image that the scan has not yet visited, at r rows
below and c - mid columns to the right. -/
def Obligations.AppliedCellsReachLaterPixels : Prop :=
  ∀ W H mid i r c j : Nat, i < W * H → (1 ≤ r ∨ (r = 0 ∧ mid < c)) → tapTarget W H mid (i / W) (i % W) r c = some j →
    i < j ∧ j < W * H ∧ j / W = i / W + r ∧ j % W + mid = i % W + c

/-- R115: one source sends at most one contribution to a given target: distinct kernel cells have distinct targets. -/
def Obligations.OneContributionPerTarget : Prop :=
  ∀ W H mid y x r c r' c' j : Nat, x < W → tapTarget W H mid y x r c = some j → tapTarget W H mid y x r' c' = some j →
    r = r' ∧ c = c'

/-- R116: error is dropped exactly where the target is outside the image, as a signed comparison says. -/
def Obligations.TargetsAreClipped : Prop :=
  ∀ W H mid y x r c : Nat,
    tapTarget W H mid y x r c = none ↔
      (H ≤ y + r ∨ (x : Int) + c - mid < 0 ∨ (W : Int) ≤ (x : Int) + c - mid)

/-- R122: in exact rational arithmetic, with applied weights that are not negative and sum to at most 1, every sample
lies in [-1/2, 3/2] and every error is at most 1/2 in magnitude. -/
def Obligations.ExactSamplesBounded : Prop :=
  ∀ (W H mid : Nat) (taps : List (Tap ℚ)) (tie : Bool) (px : List Byte), px.length = W * H →
    (∀ t ∈ taps, 0 ≤ t.weight) → (taps.map (fun t => t.weight)).sum ≤ 1 →
    ∀ vb ∈ diffusePixels exactRational W H mid taps tie px,
      -(1 / 2) ≤ vb.1 ∧ vb.1 ≤ 3 / 2 ∧ |vb.1 - (vb.2.toNat : ℚ)| ≤ 1 / 2

/-- R120: in exact rational arithmetic, of the error e of each source pixel, what goes to targets in the image and what
is lost off the edge leave the deficit (1 - S) e, and so for the sums over all pixels. What goes to targets in the image
is exactly what the samples gained over their normalised intensities: no contribution is lost or counted twice by the
scan. -/
def Obligations.ErrorAccounting : Prop :=
  ∀ (W H mid : Nat) (taps : List (Tap ℚ)) (tie : Bool) (px : List Byte) (out : List ((ℚ × Bool) × Nat)),
    px.length = W * H → (∀ t ∈ taps, 1 ≤ t.row ∨ (t.row = 0 ∧ mid < t.col)) →
    out = (diffusePixels exactRational W H mid taps tie px).zipIdx →
    let e := fun (src : (ℚ × Bool) × Nat) => src.1.1 - (src.1.2.toNat : ℚ)
    let inImage := fun (src : (ℚ × Bool) × Nat) (t : Tap ℚ) =>
      (tapTarget W H mid (src.2 / W) (src.2 % W) t.row t.col).isSome
    let sent := fun (src : (ℚ × Bool) × Nat) =>
      ((taps.filter (fun t => inImage src t)).map (fun t => e src * t.weight)).sum
    let lost := fun (src : (ℚ × Bool) × Nat) =>
      ((taps.filter (fun t => !inImage src t)).map (fun t => e src * t.weight)).sum
    let S := (taps.map (fun t => t.weight)).sum
    (∀ src ∈ out, e src - sent src - lost src = (1 - S) * e src) ∧
    (out.map e).sum - (out.map sent).sum - (out.map lost).sum = (1 - S) * (out.map e).sum ∧
    (out.map (fun src => src.1.1)).sum - (px.map (fun p => (p.toNat : ℚ) / 255)).sum = (out.map sent).sum

/-- R123: the exact samples and roundings of the worked example. -/
def Obligations.WorkedExampleExact : Prop :=
  diffusePixels exactRational 2 2 1 [⟨0, 2, 7 / 16⟩, ⟨1, 0, 3 / 16⟩, ⟨1, 1, 5 / 16⟩, ⟨1, 2, 1 / 16⟩] false
      [128#8, 128#8, 128#8, 128#8] =
    [(128 / 255, true), (1159 / 4080, false), (1739 / 4352, false), (15041 / 20480, true)]

/-- R119: the output of DIFFUSE depends on PIX[0..N-1], the applied weights, W, H, KR, KC, BPP and EDTIE alone: two
states that agree on those, and differ in anything else, get the same QBUF[0..N-1]. -/
def Obligations.DiffuseDependsOnItsInputsAlone : Prop :=
  ∀ (s s' : State) (w : Nat → Nat → F64), s.DepthLegal → s.SizeLegal Config.params →
    s.KernelLegal Config.params w → s'.KernelLegal Config.params w →
    s'.width = s.width → s'.height = s.height → s'.krows = s.krows → s'.kcols = s.kcols → s'.bpp = s.bpp →
    s'.edtie = s.edtie → (∀ i < s.N, ∃ p, Mem.cell s.pix i = some p ∧ Mem.cell s'.pix i = some p) →
    ∃ t t', exec .diffuse s = .next t ∧ exec .diffuse s' = .next t' ∧
      ∀ i < s.N, Mem.cell t.qbuf i = Mem.cell t'.qbuf i

/-! ## PACK -/

/-- R150 to R153, R155, R156: PACK with a legal depth, size, pad mode and QBUF completes. Byte k of the record holds
pixel k*G + j, or the pad value L1 past the last pixel, in bits 8 - BPP*(j+1) up, inverted at BPP 2; OUTLEN is the
number of bytes written; WARN is set for a partial group; the bytes from OUTLEN on and the rest of the state are as
before. -/
def Obligations.PackResult : Prop :=
  ∀ s : State, s.DepthLegal → s.SizeLegal Config.params → s.PackLegal → s.QbufLegal →
    let G := 8 / s.BPP
    let nb := s.N / G + if s.N % G ≠ 0 ∧ s.PAD = 1 then 1 else 0
    ∃ t, exec .pack s = .next t ∧
      t = { s.completed with
        out := t.out, outlen := BitVec.ofNat 32 nb, warn := s.warn || decide (s.N % G ≠ 0) } ∧
      (∀ k < nb, ∃ byte, Mem.cell t.out k = some byte ∧
        ∀ j < G, ∃ v : QVal,
          (if k * G + j < s.N then Mem.cell s.qbuf (k * G + j) = some v else v = BitVec.ofNat 2 (2 ^ s.BPP - 1)) ∧
          byte.toNat / 2 ^ (8 - s.BPP * (j + 1)) % 2 ^ s.BPP = if s.BPP = 2 then 3 - v.toNat else v.toNat) ∧
      ∀ k, nb ≤ k → Mem.cell t.out k = Mem.cell s.out k

/-- R157: unpacking the packed record gives back QBUF, for every legal QBUF whose pixel count is a multiple of G. -/
def Obligations.UnpackAfterPackIsIdentity : Prop :=
  ∀ s : State, s.DepthLegal → s.SizeLegal Config.params → s.PAD ≠ 3 → s.N % (8 / s.BPP) = 0 → s.QbufLegal →
    ∃ t, exec .pack s = .next t ∧ ∀ i < s.N, ∀ q, Mem.cell s.qbuf i = some q →
      unpackValue s.BPP (fun k => (Mem.cell t.out k).getD 0#8) i = q.setWidth 8

/-- R155: what PADMODE makes of a partial group: 0 rejects it, 1 pads it with L1 into one more byte, 2 drops it, both
with a warning; without one it has no effect and WARN keeps its value; 3 is rejected either way. -/
def Obligations.PartialGroupByPadMode : Prop :=
  ∀ s : State, s.DepthLegal → s.SizeLegal Config.params → s.QbufLegal →
    let G := 8 / s.BPP
    (s.N % G ≠ 0 → s.PAD = 0 → exec .pack s = .next (s.recordedError 4#8 0x24#8 (BitVec.ofNat 32 s.N))) ∧
    (s.N % G ≠ 0 → s.PAD = 1 → ∃ t, exec .pack s = .next t ∧ t.outlen.toNat = s.N / G + 1 ∧ t.warn = true ∧
      ∃ byte, Mem.cell t.out (s.N / G) = some byte ∧
        ∀ j, s.N % G ≤ j → j < G →
          byte.toNat / 2 ^ (8 - s.BPP * (j + 1)) % 2 ^ s.BPP = if s.BPP = 2 then 0 else 1) ∧
    (s.N % G ≠ 0 → s.PAD = 2 → ∃ t, exec .pack s = .next t ∧ t.outlen.toNat = s.N / G ∧ t.warn = true ∧
      ∀ k, s.N / G ≤ k → Mem.cell t.out k = Mem.cell s.out k) ∧
    (s.N % G = 0 → s.PAD ≠ 3 → ∃ t, exec .pack s = .next t ∧ t.outlen.toNat = s.N / G ∧ t.warn = s.warn) ∧
    (s.PAD = 3 → exec .pack s = .next (s.recordedError 8#8 0x24#8 3#32))

/-! ## PROCESS -/

/-- R177: PROCESS with every check of its mode passing completes: QBUF below N and OUT below the record's length are
written, OUTLEN and WARN are those of the packing, and the rest of the state is as before. -/
def Obligations.ProcessCompletes : Prop :=
  ∀ (s : State) (w : Nat → Nat → F64), s.DepthLegal → s.SizeLegal Config.params → s.PackLegal →
    (s.MODE = 0 ∨ (s.MODE = 1 ∧ s.KernelLegal Config.params w) ∨ (s.MODE = 2 ∧ s.ThresholdLegal Config.params)) →
    let G := 8 / s.BPP
    let nb := s.N / G + if s.N % G ≠ 0 ∧ s.PAD = 1 then 1 else 0
    ∃ t, exec .process s = .next t ∧
      t = { s.completed with
        qbuf := t.qbuf, out := t.out, fresh := t.fresh, outlen := BitVec.ofNat 32 nb,
        warn := s.warn || decide (s.N % G ≠ 0) } ∧
      (∀ i < s.N, ∃ q : QVal, Mem.cell t.qbuf i = some q ∧ q.toNat < 2 ^ s.BPP) ∧
      (∀ i, s.N ≤ i → Mem.cell t.qbuf i = Mem.cell s.qbuf i) ∧
      (∀ k < nb, ∃ byte, Mem.cell t.out k = some byte) ∧
      ∀ k, nb ≤ k → Mem.cell t.out k = Mem.cell s.out k

/-- R179: a PROCESS whose checks all pass is equal in effect, in the whole state, to the conversion MODE selects
followed by PACK. PACK here takes the state the conversion leaves, with BUSY 0 and not yet accepted (log 19). The
equality takes in operands that no one wrote: both sides draw the same free values in the same order (log 5). -/
def Obligations.ProcessIsConversionThenPack : Prop :=
  ∀ (s : State) (conversion : Instr),
    ((s.MODE = 0 ∧ conversion = .quantize) ∨ (s.MODE = 1 ∧ conversion = .diffuse) ∨
      (s.MODE = 2 ∧ conversion = .ordered)) →
    (validate Config.params .process s).1 = none →
    ∃ s₁ t, exec conversion s = .next s₁ ∧ exec .pack s₁ = .next t ∧ exec .process s = .next t

/-- R178: a PROCESS whose conversion would succeed but whose packing would fail changes no QBUF cell: it reports the
packing's error and nothing else. -/
def Obligations.ProcessChecksPackingFirst : Prop :=
  ∀ (s : State) (w : Nat → Nat → F64), s.DepthLegal → s.SizeLegal Config.params →
    (s.MODE = 0 ∨ (s.MODE = 1 ∧ s.KernelLegal Config.params w) ∨ (s.MODE = 2 ∧ s.ThresholdLegal Config.params)) →
    (s.PAD = 3 → exec .process s = .next (s.recordedError 8#8 0x24#8 3#32)) ∧
    (s.PAD = 0 → s.N % (8 / s.BPP) ≠ 0 →
      exec .process s = .next (s.recordedError 4#8 0x24#8 (BitVec.ofNat 32 s.N)))

/-! ## Errors -/

/-- R174: where the engine's step of a pending word, legal or not, ends with an error code, it has changed the result
registers, ERR, DONE, BUSY and PENDING, and nothing else (the model's count of free values apart, and the event taken
from the agenda): no cell, no OUTLEN, no configuration register. -/
def Obligations.ErrorsLeaveOnlyTheStatus : Prop :=
  ∀ (s t : State), s.busy = true → (s.agenda = [] ∨ ∃ rest, s.agenda = .engine :: rest) → step s = .next t →
    t.errcode ≠ 0#8 →
    t = { s.recordedError t.errcode t.errinfo t.errarg with fresh := t.fresh, agenda := s.agenda.tail }

/-- R172, R175: every command completes, from every state: DONE is 1, BUSY is 0 and PENDING holds nothing. -/
def Obligations.EveryCommandCompletes : Prop :=
  ∀ (i : Instr) (s : State), ∃ t, exec i s = .next t ∧ t.done = true ∧ t.busy = false ∧ t.pending = none

/-- R191 CHK_BPP, R192: an unsupported bit depth is reported before any other check by every command that reads it; by
PROCESS after the mode. -/
def Obligations.UnsupportedDepthReported : Prop :=
  ∀ (s : State) (i : Instr), s.BPP = 0 ∨ s.BPP = 3 →
    (i = .diffuse ∨ i = .ordered ∨ i = .quantize ∨ i = .pack ∨ (i = .process ∧ s.MODE ≠ 3)) →
    exec i s = .next (s.recordedError 3#8 0x24#8 (BitVec.ofNat 32 s.BPP))

/-- R191 CHK_W, CHK_H, R192: a width, then a height, of zero or above the capacity is reported by every command that
processes pixels. -/
def Obligations.BadDimensionsReported : Prop :=
  ∀ (s : State) (i : Instr), s.DepthLegal →
    (i = .diffuse ∨ i = .ordered ∨ i = .quantize ∨ i = .pack ∨ (i = .process ∧ s.MODE ≠ 3)) →
    (s.W = 0 ∨ Config.params.maxW < s.W → exec i s = .next (s.recordedError 2#8 0x28#8 s.width)) ∧
    (1 ≤ s.W ∧ s.W ≤ Config.params.maxW → s.H = 0 ∨ Config.params.maxH < s.H →
      exec i s = .next (s.recordedError 2#8 0x2C#8 s.height))

/-- R191 CHK_KC, CHK_KR, R192: an even, zero or oversize column count, then a zero or oversize row count, is reported by
DIFFUSE and by PROCESS with MODE 1. -/
def Obligations.BadKernelShapeReported : Prop :=
  ∀ (s : State) (i : Instr), s.DepthLegal → s.SizeLegal Config.params →
    (i = .diffuse ∨ (i = .process ∧ s.MODE = 1)) →
    (s.KC % 2 = 0 ∨ Config.params.kcMax < s.KC → exec i s = .next (s.recordedError 1#8 0x34#8 s.kcols)) ∧
    (s.KC % 2 = 1 ∧ s.KC ≤ Config.params.kcMax → s.KR = 0 ∨ Config.params.krMax < s.KR →
      exec i s = .next (s.recordedError 1#8 0x30#8 s.krows))

/-- R191 CHK_KW: the first applied cell, in row-major order, whose weight is not finite or below 0.0 is reported as
r * KC_MAX + c, by DIFFUSE and by PROCESS with MODE 1. -/
def Obligations.BadWeightReported : Prop :=
  ∀ (s : State) (i : Instr) (w : Nat → Nat → F64) (r c : Nat), s.DepthLegal → s.SizeLegal Config.params →
    s.KernelShapeLegal Config.params → (i = .diffuse ∨ (i = .process ∧ s.MODE = 1)) →
    s.AppliedCell r c → s.HoldsWeight Config.params r c (w r c) → ¬ WeightLegal (w r c) →
    (∀ r' c', s.AppliedCell r' c' → r' < r ∨ (r' = r ∧ c' < c) →
      s.HoldsWeight Config.params r' c' (w r' c') ∧ WeightLegal (w r' c')) →
    exec i s = .next (s.recordedError 1#8 0xFF#8 (BitVec.ofNat 32 (r * Config.params.kcMax + c)))

/-- R191 CHK_T: a matrix side of zero or above TMAX is reported by ORDERED and by PROCESS with MODE 2. -/
def Obligations.BadThresholdSideReported : Prop :=
  ∀ (s : State) (i : Instr), s.DepthLegal → s.SizeLegal Config.params →
    (i = .ordered ∨ (i = .process ∧ s.MODE = 2)) → s.T = 0 ∨ Config.params.tMax < s.T →
    exec i s = .next (s.recordedError 5#8 0x38#8 s.tsize)

/-- R191 CHK_QRANGE, R154: at BPP 1 the least index whose QBUF value is above 1 is reported by PACK, before any byte is
written. -/
def Obligations.QvalueRangeReported : Prop :=
  ∀ (s : State) (i : Nat) (q : QVal), s.BPP = 1 → s.SizeLegal Config.params → s.PackLegal → i < s.N →
    Mem.cell s.qbuf i = some q → 1 < q.toNat →
    (∀ j < i, ∃ q' : QVal, Mem.cell s.qbuf j = some q' ∧ q'.toNat ≤ 1) →
    exec .pack s = .next (s.recordedError 9#8 0xFF#8 (BitVec.ofNat 32 i))

/-- R191 CHK_MODE, R192: MODE 3 is reported by PROCESS before any other check. -/
def Obligations.ReservedModeReported : Prop :=
  ∀ s : State, s.MODE = 3 → exec .process s = .next (s.recordedError 6#8 0x24#8 3#32)

/-! ## The host window -/

/-- R62, R66: the regions of the window, in numbers for the default parameters, and the accesses that complete: aligned,
wholly inside one region, and of four bytes in the CSR region. R61: in every build, an access at a physical address of
the window is the access at the offset from BLOCK_BASE, and one outside it changes nothing of the block. -/
def Obligations.AccessMap : Prop :=
  (∀ (off : Nat) (n : Width),
    let ok := fun lo hi => off % n.bytes = 0 ∧ lo ≤ off ∧ off + n.bytes ≤ hi
    (accessRegion Config.params off n.bytes = some .csr ↔ ok 0x0 0x100 ∧ n = .four) ∧
    (accessRegion Config.params off n.bytes = some .kmem ↔ ok 0x1000 0x10E0) ∧
    (accessRegion Config.params off n.bytes = some .tmem ↔ ok 0x2000 0x2100) ∧
    (accessRegion Config.params off n.bytes = some .pix ↔ ok 0x400000 0x800000) ∧
    (accessRegion Config.params off n.bytes = some .qbuf ↔ ok 0x800000 0xC00000) ∧
    (accessRegion Config.params off n.bytes = some .out ↔ ok 0xC00000 0xD00000)) ∧
  ∀ (P : Params) (s : State) (addr : Nat) (n : Width) (v : Word),
    (addr < P.blockBase ∨ P.blockBase + 0xFFFFFF < addr →
      accessOn P (.read addr n) s = .next s ∧ accessOn P (.write addr n v) s = .next s) ∧
    ∀ off : Offset, addr = P.blockBase + off.toNat →
      accessOn P (.read addr n) s = .next (s.busRead P off.toNat n.bytes) ∧
      accessOn P (.write addr n v) s = .next (s.busWrite P off.toNat n.bytes v)

/-- R72: a refused access, read or write, busy or not, gives BusError and changes no state, not even BUSYWR. -/
def Obligations.RefusedAccessChangesNothing : Prop :=
  ∀ (s : State) (off : Offset) (n : Width) (v : Word) (rest : List Event),
    accessRegion Config.params off.toNat n.bytes = none →
    s.agenda = .read off n :: rest ∨ s.agenda = .write off n v :: rest →
    step s = .next { s with agenda := rest, reply := some .busError }

/-- R70: while BUSY is 1 a write that the window admits sets BUSYWR and returns Ok, and changes nothing else, in every
region. -/
def Obligations.WriteWhileBusyDropped : Prop :=
  ∀ (s : State) (off : Offset) (n : Width) (v : Word) (rest : List Event), s.busy = true →
    accessRegion Config.params off.toNat n.bytes ≠ none → s.agenda = .write off n v :: rest →
    step s = .next { s with agenda := rest, busywr := true, reply := some .ok }

/-- R171: a host write scheduled before the engine's step of a pending command changes nothing of what the step
computes: only BUSYWR, which SOFTRESET then clears, and the bus response can differ. -/
def Obligations.WritesCannotChangeARunningCommand : Prop :=
  ∀ (s t : State) (i : Instr) (off : Offset) (n : Width) (v : Word), s.busy = true → s.pending = some (encode i) →
    step (s.withAgenda []) = .next t →
    ∃ s₁ t₁, step (s.withAgenda [.write off n v]) = .next s₁ ∧ step s₁ = .next t₁ ∧
      t₁ = { t with busywr := t₁.busywr, reply := t₁.reply } ∧
      (accessRegion Config.params off.toNat n.bytes ≠ none →
        t₁.busywr = if i = .softreset then false else true)

/-- R76: a read has no side effect in any region: it changes the bus response and nothing else of the block (the model's
agenda and count of free values apart). R27, R32, R34 to R41, R63, R71: what a read of a register answers, BUSY or not:
STATUS as BUSY + 2 DONE + 4 ERR + 8 WARN + 16 BUSYWR, the results, OUTLEN, the configuration. R68, R71, R73: a read of a
memory answers its bytes, the one at the lowest offset in bits 7:0, where the host may rely on them: written cells, and
of QBUF and OUT only while BUSY is 0. -/
def Obligations.ReadsAnswerAndHaveNoSideEffects : Prop :=
  ∀ (s : State) (off : Offset) (n : Width) (rest : List Event), s.agenda = .read off n :: rest →
    ∃ t, step s = .next t ∧ t = { s with agenda := rest, reply := t.reply, fresh := t.fresh } ∧
      let answers := fun v : Word => t.reply = some (.data v) ∧ t.fresh = s.fresh
      (n = .four →
        (off = 0x14#24 → answers (BitVec.ofNat 32
          (s.busy.toNat + 2 * s.done.toNat + 4 * s.err.toNat + 8 * s.warn.toNat + 16 * s.busywr.toNat))) ∧
        (off = 0x18#24 → answers (BitVec.ofNat 32 s.errcode.toNat)) ∧
        (off = 0x1C#24 → answers (BitVec.ofNat 32 s.errinfo.toNat)) ∧
        (off = 0x20#24 → answers s.errarg) ∧
        (off = 0x3C#24 → answers s.outlen) ∧
        (off = 0x0C#24 → answers (BitVec.ofNat 32 s.irqen.toNat)) ∧
        (off = 0x24#24 → answers (BitVec.ofNat 32
          (s.mode.toNat + 16 * s.bpp.toNat + 256 * s.padmode.toNat + 4096 * s.edtie.toNat))) ∧
        (off = 0x28#24 → answers s.width) ∧ (off = 0x2C#24 → answers s.height) ∧
        (off = 0x30#24 → answers s.krows) ∧ (off = 0x34#24 → answers s.kcols) ∧
        (off = 0x38#24 → answers s.tsize)) ∧
      ∀ (r : Region) (v : Word), accessRegion Config.params off.toNat n.bytes = some r → r ≠ .csr →
        (s.busy = true → r ≠ .qbuf ∧ r ≠ .out) → v.toNat < 2 ^ (8 * n.bytes) →
        (∀ j < n.bytes, s.byteAt Config.params (off.toNat + j) = some (v.extractLsb' (8 * j) 8)) → answers v

/-- R170: a CMD write while BUSY is 0 accepts the word, legal or not: PENDING and BUSY are set, DONE is cleared, and
nothing else changes. While BUSY is 1 it is not accepted: it sets BUSYWR and changes nothing else. -/
def Obligations.CmdWriteAcceptsCommand : Prop :=
  ∀ (s : State) (w : Word) (rest : List Event), s.agenda = .write 0x10#24 .four w :: rest →
    (s.busy = false → step s = .next { s with
      agenda := rest, pending := some w, busy := true, done := false, reply := some .ok }) ∧
    (s.busy = true → step s = .next { s with agenda := rest, busywr := true, reply := some .ok })

/-- R24, R25, R26: ID, CAPS and MAXDIM read their constants in every state. -/
def Obligations.IdentificationConstants : Prop :=
  ∀ s : State,
    (s.busRead Config.params 0x00 4).reply = some (.data 0x45324907#32) ∧
    (s.busRead Config.params 0x04 4).reply = some (.data 0x00001074#32) ∧
    (s.busRead Config.params 0x08 4).reply = some (.data 0x08000800#32)

/-- R32, R37 to R40, R42, R44: the read-write registers give back what was written: WIDTH, HEIGHT, KROWS, KCOLS and
TSIZE all 32 bits, legal or not, CFG its fields and CTRL its bit, reserved bits 0. The write changes that register, or
those fields, and nothing else: no other register, no status bit, no memory. -/
def Obligations.RegistersReadBack : Prop :=
  ∀ (s : State) (v : Word), s.busy = false →
    ((∀ off, off = 0x28 ∨ off = 0x2C ∨ off = 0x30 ∨ off = 0x34 ∨ off = 0x38 →
      ((s.busWrite Config.params off 4 v).busRead Config.params off 4).reply = some (.data v)) ∧
    ((s.busWrite Config.params 0x24 4 v).busRead Config.params 0x24 4).reply = some (.data (v &&& 0x1333#32)) ∧
    ((s.busWrite Config.params 0x0C 4 v).busRead Config.params 0x0C 4).reply = some (.data (v &&& 0x1#32))) ∧
    ∀ rest : List Event,
      let wrote := fun (t : State) => step s = .next { t with agenda := rest, reply := some .ok }
      (s.agenda = .write 0x28#24 .four v :: rest → wrote { s with width := v }) ∧
      (s.agenda = .write 0x2C#24 .four v :: rest → wrote { s with height := v }) ∧
      (s.agenda = .write 0x30#24 .four v :: rest → wrote { s with krows := v }) ∧
      (s.agenda = .write 0x34#24 .four v :: rest → wrote { s with kcols := v }) ∧
      (s.agenda = .write 0x38#24 .four v :: rest → wrote { s with tsize := v }) ∧
      (s.agenda = .write 0x24#24 .four v :: rest → wrote { s with
        mode := v.extractLsb' 0 2, bpp := v.extractLsb' 4 2, padmode := v.extractLsb' 8 2, edtie := v.getLsbD 12 }) ∧
      (s.agenda = .write 0x0C#24 .four v :: rest → wrote { s with irqen := v.getLsbD 0 })

/-- R24 to R26, R34 to R36, R41, R42: a write of a read-only register or of a reserved offset changes nothing but the
bus response; reserved offsets and CMD read 0. -/
def Obligations.ReadOnlyRegistersIgnoreWrites : Prop :=
  ∀ (s : State) (v : Word) (off : Nat), s.busy = false →
    (off = 0x00 ∨ off = 0x04 ∨ off = 0x08 ∨ off = 0x18 ∨ off = 0x1C ∨ off = 0x20 ∨ off = 0x3C ∨
      (off % 4 = 0 ∧ 0x40 ≤ off ∧ off ≤ 0xFC)) →
    s.busWrite Config.params off 4 v = { s with reply := some .ok } ∧
    ((off % 4 = 0 ∧ 0x40 ≤ off ∧ off ≤ 0xFC) → (s.busRead Config.params off 4).reply = some (.data 0#32)) ∧
    (s.busRead Config.params 0x10 4).reply = some (.data 0#32)

/-- R27 to R31: a STATUS write while BUSY is 0 clears the bits DONE, ERR, WARN, BUSYWR that are written with 1, keeps
the others, and changes nothing else. -/
def Obligations.StatusWriteOneToClear : Prop :=
  ∀ (s : State) (v : Word), s.busy = false →
    ∃ t, s.busWrite Config.params 0x14 4 v = t ∧ t.statusWord = s.statusWord &&& ~~~(v &&& 0x1E#32) ∧
      t = { s with done := t.done, err := t.err, warn := t.warn, busywr := t.busywr, reply := some .ok }

/-- R73, R75, R68: an admitted write of 1, 2 or 4 bytes to a local memory while BUSY is 0 is read back byte by byte at
its own offsets, little-endian (QBUF keeps bits 1:0 of each byte). It changes that one memory and answers Ok, and
nothing else: no byte of the memory at another offset, no other memory, no register and no status bit. -/
def Obligations.MemoryBytesReadBack : Prop :=
  ∀ (s : State) (off : Offset) (n : Width) (v : Word) (r : Region) (rest : List Event), s.busy = false →
    accessRegion Config.params off.toNat n.bytes = some r → r ≠ .csr → s.agenda = .write off n v :: rest →
    ∃ t, step s = .next t ∧
      t = { s with
        kmem := if r = .kmem then t.kmem else s.kmem, tmem := if r = .tmem then t.tmem else s.tmem,
        pix := if r = .pix then t.pix else s.pix, qbuf := if r = .qbuf then t.qbuf else s.qbuf,
        out := if r = .out then t.out else s.out, agenda := rest, reply := some .ok } ∧
      (∀ j < n.bytes, (t.busRead Config.params (off.toNat + j) 1).reply =
        some (.data ((v >>> (8 * j)) &&& (if r = .qbuf then 3#32 else 0xFF#32)))) ∧
      ∀ a, a < off.toNat ∨ off.toNat + n.bytes ≤ a → t.byteAt Config.params a = s.byteAt Config.params a

/-- R43, R196: irq is IRQEN and DONE: after a command's step it is IRQEN, but for SOFTRESET, which clears IRQEN; at
acceptance it falls. -/
def Obligations.InterruptFollowsCompletion : Prop :=
  ∀ (i : Instr) (s : State) (w : Word),
    (∃ t, exec i s = .next t ∧ t.irq = if i = .softreset then false else s.irqen) ∧ (s.accept w).irq = false

/-! ## Hardware reset -/

/-- R220: asserting rst, in any state, sets every control register to its reset value, PENDING to nothing and irq to 0;
PIX, KMEM and TMEM, which no command writes, are kept. Every register but the three constants then reads 0. -/
def Obligations.HardwareResetClearsRegisters : Prop :=
  ∀ (s : State) (rest : List Event), s.agenda = .rst :: rest →
    ∃ t, step s = .next t ∧ t.irq = false ∧ t.pending = none ∧
      (∀ c : Csr, c ≠ .id → c ≠ .caps → c ≠ .maxdim → t.csrRead Config.params c = 0#32) ∧
      t.csrRead Config.params .id = 0x45324907#32 ∧ t.csrRead Config.params .caps = 0x00001074#32 ∧
      t.csrRead Config.params .maxdim = 0x08000800#32 ∧
      t = { State.reset with
        pix := s.pix, kmem := s.kmem, tmem := s.tmem, qbuf := t.qbuf, out := t.out, fresh := t.fresh, agenda := rest,
        reply := s.reply }

/-- R221, R222: a reset while no command is pending changes no memory cell, and so for a pending NOP, SOFTRESET or
illegal word, whose rules write no cell. -/
def Obligations.ResetKeepsMemories : Prop :=
  ∀ (s : State) (rest : List Event) (w : Word), s.agenda = .rst :: rest →
    (s.busy = false ∨ (s.pending = some w ∧ ∀ i, decodeWord w = .ok i → i = .nop ∨ i = .softreset)) →
    ∃ t, step s = .next t ∧ t.qbuf = s.qbuf ∧ t.out = s.out ∧ t.pix = s.pix ∧ t.kmem = s.kmem ∧ t.tmem = s.tmem

/-- R222: a reset while a command is pending makes every cell its rule would write unwritten: QBUF below N for a
conversion, OUT below the record's length for PACK, both for PROCESS; every other cell keeps its contents. -/
def Obligations.ResetAbandonsTheCommand : Prop :=
  ∀ (s : State) (rest : List Event) (i : Instr), s.agenda = .rst :: rest → s.busy = true →
    s.pending = some (encode i) → (validate Config.params i s).1 = none →
    let nb := s.N / (8 / s.BPP) + if s.N % (8 / s.BPP) ≠ 0 ∧ s.PAD = 1 then 1 else 0
    ∃ t, step s = .next t ∧ t.done = false ∧ t.errcode = 0#8 ∧
      (∀ k, Mem.cell t.qbuf k =
        if (i = .diffuse ∨ i = .ordered ∨ i = .quantize ∨ i = .process) ∧ k < s.N then none
        else Mem.cell s.qbuf k) ∧
      ∀ k, Mem.cell t.out k = if (i = .pack ∨ i = .process) ∧ k < nb then none else Mem.cell s.out k

/-! ## The whole machine -/

/-- The state after reset meets the invariant, in every build (R51, R53, R220, R221). -/
def Obligations.InvariantAtReset : Prop := ∀ P : Params, State.reset.Inv P

/-- Every step keeps the invariant: PENDING holds a word exactly while BUSY is 1 (R51), DONE is 0 while BUSY (R28),
ERRCODE is at most 9 (R190), the record fits OUT, and every memory keeps its canonical form and its capacity. The same
holds of the block at any well-formed build parameters (R6). -/
def Obligations.InvariantKeptByEveryStep : Prop :=
  (∀ s t : State, s.Inv Config.params → step s = .next t → t.Inv Config.params) ∧
  ∀ (P : Params) (s t : State), P.wf = true → s.Inv P → stepOn P s = .next t → t.Inv P

/-- R175, R198: from a state with the invariant the machine never stops: it neither faults nor refuses. -/
def Obligations.InvariantStatesStepOn : Prop :=
  ∀ s : State, s.Inv Config.params → s.StepsOn

/-- R175, R232: once the host stops, the engine takes its step: after the events to come and one step more, BUSY is 0.
That the engine moves when the agenda is empty is the model's form of weak fairness (log 1). -/
def Obligations.BusyEndsAfterTheAgenda : Prop :=
  ∀ s : State, s.Inv Config.params →
    ∃ t, Host.Core.run Sys2Proof.core (s.agenda.length + 1) s = .next t ∧ t.busy = false ∧ t.agenda = []

/-- R29, R30, R31: when ERR, WARN and BUSYWR are set, and the three ways they are cleared. The engine's step sets ERR
where it ends with an error code, and WARN where a PACK or a PROCESS succeeds with a partial group. A host write that
the window admits while BUSY is 1 sets BUSYWR, answers Ok and changes nothing else, in every region (R70). They are
sticky: only a host write of 1 to the bit of STATUS while BUSY is 0, SOFTRESET or hardware reset clears one of them. -/
def Obligations.StickyBitsSetAndCleared : Prop :=
  ∀ s t : State, step s = .next t →
    let engineMoves := s.busy = true ∧ (s.agenda = [] ∨ ∃ rest, s.agenda = .engine :: rest)
    let clears := fun bit =>
      (∃ (v : Word) (rest : List Event), s.agenda = .write 0x14#24 .four v :: rest ∧ v.getLsbD bit = true ∧
        s.busy = false) ∨
      (∃ rest, s.agenda = .rst :: rest) ∨
      (engineMoves ∧ s.pending = some (encode .softreset))
    (engineMoves → t.errcode ≠ 0#8 → t.err = true) ∧
    (engineMoves → s.pending = some (encode .pack) ∨ s.pending = some (encode .process) → t.errcode = 0#8 →
      s.N % (8 / s.BPP) ≠ 0 → t.warn = true) ∧
    (∀ (off : Offset) (n : Width) (v : Word) (rest : List Event), s.busy = true →
      s.agenda = .write off n v :: rest → accessRegion Config.params off.toNat n.bytes ≠ none →
      t = { s with busywr := true, agenda := rest, reply := some .ok }) ∧
    (s.err = true → t.err = false → clears 2) ∧
    (s.warn = true → t.warn = false → clears 3) ∧
    (s.busywr = true → t.busywr = false → clears 4)

/-- R27: BUSY is set only by acceptance, which puts the word of a CMD write in PENDING, and cleared only by the engine's
step or by hardware reset. -/
def Obligations.BusyChangesOnlyByTheLifecycle : Prop :=
  ∀ s t : State, step s = .next t →
    (s.busy = false → t.busy = true →
      ∃ (v : Word) (rest : List Event), s.agenda = .write 0x10#24 .four v :: rest ∧ t.pending = some v ∧
        t.done = false) ∧
    (s.busy = true → t.busy = false →
      (∃ rest, s.agenda = .rst :: rest) ∨ ((s.agenda = [] ∨ ∃ rest, s.agenda = .engine :: rest) ∧ t.done = true))

/-- R45, R48, R49: PIX, KMEM and TMEM are written only by the host: a step that changes one of them is a host write to
its region while BUSY is 0. -/
def Obligations.InputMemoriesWrittenOnlyByHost : Prop :=
  ∀ s t : State, step s = .next t → t.pix ≠ s.pix ∨ t.kmem ≠ s.kmem ∨ t.tmem ≠ s.tmem →
    ∃ (off : Offset) (n : Width) (v : Word) (rest : List Event), s.agenda = .write off n v :: rest ∧ s.busy = false ∧
      (t.pix ≠ s.pix → accessRegion Config.params off.toNat n.bytes = some .pix) ∧
      (t.kmem ≠ s.kmem → accessRegion Config.params off.toNat n.bytes = some .kmem) ∧
      (t.tmem ≠ s.tmem → accessRegion Config.params off.toNat n.bytes = some .tmem)

/-- R41: OUTLEN is changed only by a PACK or PROCESS that succeeds, by SOFTRESET and by hardware reset. -/
def Obligations.OutlenChangesOnlyByPacking : Prop :=
  ∀ s t : State, step s = .next t → t.outlen ≠ s.outlen →
    (∃ rest, s.agenda = .rst :: rest) ∨
    ((s.agenda = [] ∨ ∃ rest, s.agenda = .engine :: rest) ∧ s.busy = true ∧ t.errcode = 0#8 ∧
      (s.pending = some (encode .pack) ∨ s.pending = some (encode .process) ∨ s.pending = some (encode .softreset)))
end

