-- ==== Sys2Proof/Laws/Mem.lean ====
section
/-! SUPPORT. The laws of the local memories: what a cell holds after each operation, and that every operation keeps the
canonical form and the capacity. -/

namespace Sys2Proof.Machine

variable {α : Type}

@[simp] theorem Mem.cell_nil (i : Nat) : Mem.cell ([] : Mem α) i = none := rfl

theorem Mem.cell_cons (j : Nat) (v : α) (m : Mem α) (i : Nat) :
    Mem.cell ((j, v) :: m) i = if j = i then some v else Mem.cell m i := rfl

/-! ## put -/

theorem Mem.cell_put (m : Mem α) (i k : Nat) (v : α) :
    Mem.cell (Mem.put m i v) k = if i = k then some v else Mem.cell m k := by
  induction m with
  | nil => simp [Mem.put, Mem.cell_cons]
  | cons c m ih =>
    obtain ⟨j, w⟩ := c
    unfold Mem.put
    split
    · simp [Mem.cell_cons]
    · split
      · subst_vars; simp only [Mem.cell_cons]; split <;> simp
      · simp only [Mem.cell_cons, ih]
        split <;> split <;> first | rfl | omega

theorem Mem.mem_put {m : Mem α} {i : Nat} {v : α} {c : Nat × α} (h : c ∈ Mem.put m i v) : c = (i, v) ∨ c ∈ m := by
  induction m with
  | nil => simpa [Mem.put] using h
  | cons d m ih =>
    obtain ⟨j, w⟩ := d
    unfold Mem.put at h
    split at h
    · simpa using h
    · split at h
      · simp only [List.mem_cons] at h ⊢; tauto
      · simp only [List.mem_cons] at h ⊢; tauto

theorem Mem.put_wf {m : Mem α} (h : Mem.Wf m) (i : Nat) (v : α) : Mem.Wf (Mem.put m i v) := by
  induction m with
  | nil => simp [Mem.put]
  | cons d m ih =>
    obtain ⟨j, w⟩ := d
    obtain ⟨h1, h2⟩ := List.pairwise_cons.1 h
    unfold Mem.put
    split
    · refine List.pairwise_cons.2 ⟨?_, h⟩
      intro c hc
      rcases List.mem_cons.1 hc with rfl | hc
      · assumption
      · exact Nat.lt_trans (by assumption) (h1 c hc)
    · split
      · subst_vars; exact List.pairwise_cons.2 ⟨h1, h2⟩
      · refine List.pairwise_cons.2 ⟨?_, ih h2⟩
        intro c hc
        rcases Mem.mem_put hc with rfl | hc
        · simp only; omega
        · exact h1 c hc

theorem Mem.put_below {m : Mem α} {n : Nat} (h : Mem.Below n m) {i : Nat} (hi : i < n) (v : α) :
    Mem.Below n (Mem.put m i v) := by
  intro c hc
  rcases Mem.mem_put hc with rfl | hc
  · exact hi
  · exact h c hc

/-! ## writeRange -/

theorem Mem.cell_writeRange (vs : List α) (m : Mem α) (i k : Nat) :
    Mem.cell (Mem.writeRange m i vs) k =
      if i ≤ k ∧ k < i + vs.length then vs[k - i]? else Mem.cell m k := by
  induction vs generalizing m i with
  | nil => simp [Mem.writeRange]
  | cons v vs ih =>
    rw [Mem.writeRange, ih, Mem.cell_put]
    by_cases h : i = k
    · subst h; simp
    · by_cases h2 : i + 1 ≤ k ∧ k < i + 1 + vs.length
      · have : k - i = (k - (i + 1)) + 1 := by omega
        rw [if_pos h2, if_pos (by simp only [List.length_cons]; omega), this, List.getElem?_cons_succ]
      · rw [if_neg h2, if_neg h, if_neg (by simp only [List.length_cons]; omega)]

theorem Mem.writeRange_wf (vs : List α) {m : Mem α} (h : Mem.Wf m) (i : Nat) : Mem.Wf (Mem.writeRange m i vs) := by
  induction vs generalizing m i with
  | nil => exact h
  | cons v vs ih => exact ih (Mem.put_wf h i v) (i + 1)

theorem Mem.writeRange_below (vs : List α) {m : Mem α} {n : Nat} (h : Mem.Below n m) {i : Nat}
    (hi : i + vs.length ≤ n) : Mem.Below n (Mem.writeRange m i vs) := by
  induction vs generalizing m i with
  | nil => exact h
  | cons v vs ih =>
    rw [List.length_cons] at hi
    exact ih (Mem.put_below h (by omega) v) (by omega)

/-! ## unwrite -/

theorem Mem.cell_unwrite (n : Nat) (m : Mem α) (i : Nat) :
    Mem.cell (Mem.unwrite n m) i = if i < n then none else Mem.cell m i := by
  induction m with
  | nil => simp [Mem.unwrite]
  | cons c m ih =>
    obtain ⟨j, w⟩ := c
    unfold Mem.unwrite at ih ⊢
    by_cases hj : n ≤ j
    · rw [List.filter_cons_of_pos (by simpa using hj), Mem.cell_cons, Mem.cell_cons, ih]
      split <;> split <;> first | rfl | omega
    · rw [List.filter_cons_of_neg (by simpa using hj), Mem.cell_cons, ih]
      split <;> first | rfl | (split <;> first | rfl | omega)

theorem Mem.unwrite_wf (n : Nat) {m : Mem α} (h : Mem.Wf m) : Mem.Wf (Mem.unwrite n m) := h.filter _

theorem Mem.unwrite_below (k : Nat) {m : Mem α} {n : Nat} (h : Mem.Below n m) : Mem.Below n (Mem.unwrite k m) :=
  fun c hc => h c (List.mem_of_mem_filter hc)

/-! ## overlay -/

theorem Mem.mem_enum {vs : List α} {i : Nat} {c : Nat × α} (h : c ∈ Mem.enum i vs) : i ≤ c.1 ∧ c.1 < i + vs.length := by
  induction vs generalizing i with
  | nil => simp [Mem.enum] at h
  | cons v vs ih =>
    rw [Mem.enum, List.mem_cons] at h
    rcases h with rfl | h
    · simp
    · have := ih h
      simp only [List.length_cons]; omega

theorem Mem.enum_wf (vs : List α) (i : Nat) : Mem.Wf (Mem.enum i vs) := by
  induction vs generalizing i with
  | nil => exact List.Pairwise.nil
  | cons v vs ih =>
    refine List.pairwise_cons.2 ⟨fun c hc => ?_, ih (i + 1)⟩
    have := Mem.mem_enum hc
    simp only; omega

theorem Mem.cell_enum_append (vs : List α) (m : Mem α) (i k : Nat) :
    Mem.cell (Mem.enum i vs ++ m) k = if i ≤ k ∧ k < i + vs.length then vs[k - i]? else Mem.cell m k := by
  induction vs generalizing i with
  | nil => simp [Mem.enum]
  | cons v vs ih =>
    rw [Mem.enum, List.cons_append, Mem.cell_cons, ih]
    by_cases h : i = k
    · subst h; simp
    · by_cases h2 : i + 1 ≤ k ∧ k < i + 1 + vs.length
      · have : k - i = (k - (i + 1)) + 1 := by omega
        rw [if_neg h, if_pos h2, if_pos (by simp only [List.length_cons]; omega), this, List.getElem?_cons_succ]
      · rw [if_neg h, if_neg h2, if_neg (by simp only [List.length_cons]; omega)]

/-- A cell after `overlay`: the listed value below the list's length, and what it held otherwise. -/
theorem Mem.cell_overlay (vs : List α) (m : Mem α) (i : Nat) :
    Mem.cell (Mem.overlay vs m) i = if i < vs.length then vs[i]? else Mem.cell m i := by
  unfold Mem.overlay
  rw [Mem.cell_enum_append, Mem.cell_unwrite]
  simp only [Nat.zero_le, true_and, Nat.zero_add, Nat.sub_zero]
  split <;> rfl

theorem Mem.cell_overlay_lt {vs : List α} {i : Nat} (h : i < vs.length) (m : Mem α) :
    Mem.cell (Mem.overlay vs m) i = vs[i]? := by rw [Mem.cell_overlay, if_pos h]

theorem Mem.cell_overlay_ge {vs : List α} {i : Nat} (h : vs.length ≤ i) (m : Mem α) :
    Mem.cell (Mem.overlay vs m) i = Mem.cell m i := by rw [Mem.cell_overlay, if_neg (by omega)]

theorem Mem.overlay_wf (vs : List α) {m : Mem α} (h : Mem.Wf m) : Mem.Wf (Mem.overlay vs m) := by
  refine List.pairwise_append.2 ⟨Mem.enum_wf vs 0, Mem.unwrite_wf _ h, fun a ha b hb => ?_⟩
  have h1 := Mem.mem_enum ha
  have h2 := List.of_mem_filter hb
  simp at h2; omega

theorem Mem.overlay_below (vs : List α) {m : Mem α} {n : Nat} (h : Mem.Below n m) (hn : vs.length ≤ n) :
    Mem.Below n (Mem.overlay vs m) := by
  intro c hc
  rcases List.mem_append.1 hc with hc | hc
  · have := Mem.mem_enum hc; omega
  · exact Mem.unwrite_below _ h c hc

/-! ## read and readRange -/

theorem Mem.read_of_cell {free : Nat → α} {m : Mem α} {i : Nat} {v : α} (h : Mem.cell m i = some v) (n : Nat) :
    Mem.read free m i n = (v, n) := by simp [Mem.read, h]

theorem Mem.read_of_unwritten {free : Nat → α} {m : Mem α} {i : Nat} (h : Mem.cell m i = none) (n : Nat) :
    Mem.read free m i n = (free n, n + 1) := by simp [Mem.read, h]

/-- A read gives what the cell holds, where it holds something. -/
theorem Mem.read_value {free : Nat → α} {m : Mem α} {i n : Nat} {v : α} (h : Mem.cell m i = some v) :
    (Mem.read free m i n).1 = v := by simp [Mem.read, h]

@[simp] theorem Mem.readRange_length (free : Nat → α) (m : Mem α) (k i n : Nat) :
    (Mem.readRange free m k i n).1.length = k := by
  induction k generalizing i n with
  | zero => rfl
  | succ k ih => simp [Mem.readRange, ih]

/-- A run of reads gives at each place what the cell holds, where it holds something. -/
theorem Mem.readRange_value {free : Nat → α} {m : Mem α} {k i n j : Nat} (hj : j < k) {v : α}
    (h : Mem.cell m (i + j) = some v) : (Mem.readRange free m k i n).1[j]? = some v := by
  induction k generalizing i n j with
  | zero => omega
  | succ k ih =>
    rw [Mem.readRange]
    cases j with
    | zero => simpa using Mem.read_value h
    | succ j =>
      rw [List.getElem?_cons_succ]
      exact ih (by omega) (by rw [← h]; congr 1; omega)

/-- Reading written cells draws no free value and gives their contents. -/
theorem Mem.readRange_written {free : Nat → α} {m : Mem α} {i n : Nat} (vs : List α)
    (h : ∀ j, (hj : j < vs.length) → Mem.cell m (i + j) = some vs[j]) :
    Mem.readRange free m vs.length i n = (vs, n) := by
  induction vs generalizing i with
  | nil => rfl
  | cons v vs ih =>
    have h0 : Mem.cell m i = some v := h 0 (by simp)
    have h1 := ih (i := i + 1) (fun j hj => by
      have := h (j + 1) (by simpa using hj)
      rw [← Nat.add_assoc, Nat.add_right_comm] at this
      simpa using this)
    simp only [List.length_cons, Mem.readRange, Mem.read_of_cell h0, h1]

/-! ## Canonical form -/

theorem Mem.cell_eq_none_of_lt {m : Mem α} {i : Nat} (h : ∀ c ∈ m, i < c.1) : Mem.cell m i = none := by
  induction m with
  | nil => rfl
  | cons c m ih =>
    obtain ⟨j, w⟩ := c
    have hj : i < j := h (j, w) (by simp)
    rw [Mem.cell_cons, if_neg (by omega)]
    exact ih (fun c hc => h c (List.mem_cons_of_mem _ hc))

/-- Two memories in canonical form with the same cells are the same data. -/
theorem Mem.eq_of_cells {m m' : Mem α} (h : Mem.Wf m) (h' : Mem.Wf m') (hc : ∀ i, Mem.cell m i = Mem.cell m' i) :
    m = m' := by
  induction m generalizing m' with
  | nil =>
    cases m' with
    | nil => rfl
    | cons c m' =>
      obtain ⟨j, w⟩ := c
      have := hc j
      simp [Mem.cell_cons] at this
  | cons c m ih =>
    obtain ⟨j, v⟩ := c
    cases m' with
    | nil =>
      have := hc j
      simp [Mem.cell_cons] at this
    | cons c' m' =>
      obtain ⟨k, w⟩ := c'
      obtain ⟨h1, h2⟩ := List.pairwise_cons.1 h
      obtain ⟨h1', h2'⟩ := List.pairwise_cons.1 h'
      have hjk : j = k := by
        rcases Nat.lt_trichotomy j k with hlt | rfl | hlt
        · have := hc j
          rw [Mem.cell_cons, if_pos rfl, Mem.cell_cons, if_neg (by omega),
            Mem.cell_eq_none_of_lt (fun c hc => Nat.lt_trans hlt (h1' c hc))] at this
          exact absurd this (by simp)
        · rfl
        · have := hc k
          rw [Mem.cell_cons, if_neg (by omega), Mem.cell_cons, if_pos rfl,
            Mem.cell_eq_none_of_lt (fun c hc => Nat.lt_trans hlt (h1 c hc))] at this
          exact absurd this (by simp)
      subst hjk
      have hvw : v = w := by
        have := hc j
        simpa [Mem.cell_cons] using this
      subst hvw
      rw [ih h2 h2' (fun i => ?_)]
      by_cases hi : j = i
      · subst hi
        rw [Mem.cell_eq_none_of_lt h1, Mem.cell_eq_none_of_lt h1']
      · have := hc i
        rwa [Mem.cell_cons, Mem.cell_cons, if_neg hi, if_neg hi] at this

end Sys2Proof.Machine
end

