-- ==== Sys2Proof/Laws/Params.lean ====
section
/-! SUPPORT. What well-formed build parameters satisfy (spec/00_scope.md R6). -/

namespace Sys2Proof

/-- The bounds of R6, as numbers. -/
theorem Params.wf_bounds {P : Params} (h : P.wf = true) :
    P.krMax ≤ 15 ∧ P.kcMax ≤ 15 ∧ P.tMax ≤ 255 ∧ P.maxW * P.maxH ≤ P.maxPix ∧ P.maxPix ≤ 0x400000 ∧
      (P.maxPix + 3) / 4 ≤ P.outCap ∧ P.outCap ≤ 0x400000 ∧ P.blockBase % 0x1000000 = 0 := by
  simp only [Params.wf, Bool.and_eq_true, decide_eq_true_eq, beq_iff_eq] at h
  obtain ⟨⟨⟨⟨⟨⟨⟨⟨_, hr⟩, _, hc⟩, _, ht⟩, _⟩, _⟩, hp, hp'⟩, ho, ho'⟩, hb⟩ := h
  exact ⟨hr, hc, ht, hp, hp', ho, ho', hb⟩

/-- The default parameters are well formed, whatever the slot of the window is. -/
theorem Config.params_wf : Config.params.wf = true := by
  have hb : Config.params.blockBase % 0x1000000 = 0 := by exact Nat.mul_mod_right _ _
  rw [Params.wf, hb]
  decide

end Sys2Proof
end

