-- ==== Sys2Proof/Laws/State.lean ====
section
/-! SUPPORT. One lemma per field of the state per update, and per derived operand for the updates that keep it: no later
proof unfolds a record update. -/

namespace Sys2Proof.Machine

/-! ## withFresh -/

@[simp] theorem State.withFresh_irqen (s : State) (n : Nat) : (s.withFresh n).irqen = s.irqen := rfl
@[simp] theorem State.withFresh_busy (s : State) (n : Nat) : (s.withFresh n).busy = s.busy := rfl
@[simp] theorem State.withFresh_done (s : State) (n : Nat) : (s.withFresh n).done = s.done := rfl
@[simp] theorem State.withFresh_err (s : State) (n : Nat) : (s.withFresh n).err = s.err := rfl
@[simp] theorem State.withFresh_warn (s : State) (n : Nat) : (s.withFresh n).warn = s.warn := rfl
@[simp] theorem State.withFresh_busywr (s : State) (n : Nat) : (s.withFresh n).busywr = s.busywr := rfl
@[simp] theorem State.withFresh_errcode (s : State) (n : Nat) : (s.withFresh n).errcode = s.errcode := rfl
@[simp] theorem State.withFresh_errinfo (s : State) (n : Nat) : (s.withFresh n).errinfo = s.errinfo := rfl
@[simp] theorem State.withFresh_errarg (s : State) (n : Nat) : (s.withFresh n).errarg = s.errarg := rfl
@[simp] theorem State.withFresh_mode (s : State) (n : Nat) : (s.withFresh n).mode = s.mode := rfl
@[simp] theorem State.withFresh_bpp (s : State) (n : Nat) : (s.withFresh n).bpp = s.bpp := rfl
@[simp] theorem State.withFresh_padmode (s : State) (n : Nat) : (s.withFresh n).padmode = s.padmode := rfl
@[simp] theorem State.withFresh_edtie (s : State) (n : Nat) : (s.withFresh n).edtie = s.edtie := rfl
@[simp] theorem State.withFresh_width (s : State) (n : Nat) : (s.withFresh n).width = s.width := rfl
@[simp] theorem State.withFresh_height (s : State) (n : Nat) : (s.withFresh n).height = s.height := rfl
@[simp] theorem State.withFresh_krows (s : State) (n : Nat) : (s.withFresh n).krows = s.krows := rfl
@[simp] theorem State.withFresh_kcols (s : State) (n : Nat) : (s.withFresh n).kcols = s.kcols := rfl
@[simp] theorem State.withFresh_tsize (s : State) (n : Nat) : (s.withFresh n).tsize = s.tsize := rfl
@[simp] theorem State.withFresh_outlen (s : State) (n : Nat) : (s.withFresh n).outlen = s.outlen := rfl
@[simp] theorem State.withFresh_pending (s : State) (n : Nat) : (s.withFresh n).pending = s.pending := rfl
@[simp] theorem State.withFresh_pix (s : State) (n : Nat) : (s.withFresh n).pix = s.pix := rfl
@[simp] theorem State.withFresh_qbuf (s : State) (n : Nat) : (s.withFresh n).qbuf = s.qbuf := rfl
@[simp] theorem State.withFresh_out (s : State) (n : Nat) : (s.withFresh n).out = s.out := rfl
@[simp] theorem State.withFresh_kmem (s : State) (n : Nat) : (s.withFresh n).kmem = s.kmem := rfl
@[simp] theorem State.withFresh_tmem (s : State) (n : Nat) : (s.withFresh n).tmem = s.tmem := rfl
@[simp] theorem State.withFresh_fresh (s : State) (n : Nat) : (s.withFresh n).fresh = n := rfl
@[simp] theorem State.withFresh_agenda (s : State) (n : Nat) : (s.withFresh n).agenda = s.agenda := rfl
@[simp] theorem State.withFresh_reply (s : State) (n : Nat) : (s.withFresh n).reply = s.reply := rfl

/-! ## withReply -/

@[simp] theorem State.withReply_irqen (s : State) (r : Reply) : (s.withReply r).irqen = s.irqen := rfl
@[simp] theorem State.withReply_busy (s : State) (r : Reply) : (s.withReply r).busy = s.busy := rfl
@[simp] theorem State.withReply_done (s : State) (r : Reply) : (s.withReply r).done = s.done := rfl
@[simp] theorem State.withReply_err (s : State) (r : Reply) : (s.withReply r).err = s.err := rfl
@[simp] theorem State.withReply_warn (s : State) (r : Reply) : (s.withReply r).warn = s.warn := rfl
@[simp] theorem State.withReply_busywr (s : State) (r : Reply) : (s.withReply r).busywr = s.busywr := rfl
@[simp] theorem State.withReply_errcode (s : State) (r : Reply) : (s.withReply r).errcode = s.errcode := rfl
@[simp] theorem State.withReply_errinfo (s : State) (r : Reply) : (s.withReply r).errinfo = s.errinfo := rfl
@[simp] theorem State.withReply_errarg (s : State) (r : Reply) : (s.withReply r).errarg = s.errarg := rfl
@[simp] theorem State.withReply_mode (s : State) (r : Reply) : (s.withReply r).mode = s.mode := rfl
@[simp] theorem State.withReply_bpp (s : State) (r : Reply) : (s.withReply r).bpp = s.bpp := rfl
@[simp] theorem State.withReply_padmode (s : State) (r : Reply) : (s.withReply r).padmode = s.padmode := rfl
@[simp] theorem State.withReply_edtie (s : State) (r : Reply) : (s.withReply r).edtie = s.edtie := rfl
@[simp] theorem State.withReply_width (s : State) (r : Reply) : (s.withReply r).width = s.width := rfl
@[simp] theorem State.withReply_height (s : State) (r : Reply) : (s.withReply r).height = s.height := rfl
@[simp] theorem State.withReply_krows (s : State) (r : Reply) : (s.withReply r).krows = s.krows := rfl
@[simp] theorem State.withReply_kcols (s : State) (r : Reply) : (s.withReply r).kcols = s.kcols := rfl
@[simp] theorem State.withReply_tsize (s : State) (r : Reply) : (s.withReply r).tsize = s.tsize := rfl
@[simp] theorem State.withReply_outlen (s : State) (r : Reply) : (s.withReply r).outlen = s.outlen := rfl
@[simp] theorem State.withReply_pending (s : State) (r : Reply) : (s.withReply r).pending = s.pending := rfl
@[simp] theorem State.withReply_pix (s : State) (r : Reply) : (s.withReply r).pix = s.pix := rfl
@[simp] theorem State.withReply_qbuf (s : State) (r : Reply) : (s.withReply r).qbuf = s.qbuf := rfl
@[simp] theorem State.withReply_out (s : State) (r : Reply) : (s.withReply r).out = s.out := rfl
@[simp] theorem State.withReply_kmem (s : State) (r : Reply) : (s.withReply r).kmem = s.kmem := rfl
@[simp] theorem State.withReply_tmem (s : State) (r : Reply) : (s.withReply r).tmem = s.tmem := rfl
@[simp] theorem State.withReply_fresh (s : State) (r : Reply) : (s.withReply r).fresh = s.fresh := rfl
@[simp] theorem State.withReply_agenda (s : State) (r : Reply) : (s.withReply r).agenda = s.agenda := rfl
@[simp] theorem State.withReply_reply (s : State) (r : Reply) : (s.withReply r).reply = some r := rfl

/-! ## withAgenda -/

@[simp] theorem State.withAgenda_irqen (s : State) (l : List Event) : (s.withAgenda l).irqen = s.irqen := rfl
@[simp] theorem State.withAgenda_busy (s : State) (l : List Event) : (s.withAgenda l).busy = s.busy := rfl
@[simp] theorem State.withAgenda_done (s : State) (l : List Event) : (s.withAgenda l).done = s.done := rfl
@[simp] theorem State.withAgenda_err (s : State) (l : List Event) : (s.withAgenda l).err = s.err := rfl
@[simp] theorem State.withAgenda_warn (s : State) (l : List Event) : (s.withAgenda l).warn = s.warn := rfl
@[simp] theorem State.withAgenda_busywr (s : State) (l : List Event) : (s.withAgenda l).busywr = s.busywr := rfl
@[simp] theorem State.withAgenda_errcode (s : State) (l : List Event) : (s.withAgenda l).errcode = s.errcode := rfl
@[simp] theorem State.withAgenda_errinfo (s : State) (l : List Event) : (s.withAgenda l).errinfo = s.errinfo := rfl
@[simp] theorem State.withAgenda_errarg (s : State) (l : List Event) : (s.withAgenda l).errarg = s.errarg := rfl
@[simp] theorem State.withAgenda_mode (s : State) (l : List Event) : (s.withAgenda l).mode = s.mode := rfl
@[simp] theorem State.withAgenda_bpp (s : State) (l : List Event) : (s.withAgenda l).bpp = s.bpp := rfl
@[simp] theorem State.withAgenda_padmode (s : State) (l : List Event) : (s.withAgenda l).padmode = s.padmode := rfl
@[simp] theorem State.withAgenda_edtie (s : State) (l : List Event) : (s.withAgenda l).edtie = s.edtie := rfl
@[simp] theorem State.withAgenda_width (s : State) (l : List Event) : (s.withAgenda l).width = s.width := rfl
@[simp] theorem State.withAgenda_height (s : State) (l : List Event) : (s.withAgenda l).height = s.height := rfl
@[simp] theorem State.withAgenda_krows (s : State) (l : List Event) : (s.withAgenda l).krows = s.krows := rfl
@[simp] theorem State.withAgenda_kcols (s : State) (l : List Event) : (s.withAgenda l).kcols = s.kcols := rfl
@[simp] theorem State.withAgenda_tsize (s : State) (l : List Event) : (s.withAgenda l).tsize = s.tsize := rfl
@[simp] theorem State.withAgenda_outlen (s : State) (l : List Event) : (s.withAgenda l).outlen = s.outlen := rfl
@[simp] theorem State.withAgenda_pending (s : State) (l : List Event) : (s.withAgenda l).pending = s.pending := rfl
@[simp] theorem State.withAgenda_pix (s : State) (l : List Event) : (s.withAgenda l).pix = s.pix := rfl
@[simp] theorem State.withAgenda_qbuf (s : State) (l : List Event) : (s.withAgenda l).qbuf = s.qbuf := rfl
@[simp] theorem State.withAgenda_out (s : State) (l : List Event) : (s.withAgenda l).out = s.out := rfl
@[simp] theorem State.withAgenda_kmem (s : State) (l : List Event) : (s.withAgenda l).kmem = s.kmem := rfl
@[simp] theorem State.withAgenda_tmem (s : State) (l : List Event) : (s.withAgenda l).tmem = s.tmem := rfl
@[simp] theorem State.withAgenda_fresh (s : State) (l : List Event) : (s.withAgenda l).fresh = s.fresh := rfl
@[simp] theorem State.withAgenda_agenda (s : State) (l : List Event) : (s.withAgenda l).agenda = l := rfl
@[simp] theorem State.withAgenda_reply (s : State) (l : List Event) : (s.withAgenda l).reply = s.reply := rfl

/-! ## withQbuf -/

@[simp] theorem State.withQbuf_irqen (s : State) (m : Mem QVal) : (s.withQbuf m).irqen = s.irqen := rfl
@[simp] theorem State.withQbuf_busy (s : State) (m : Mem QVal) : (s.withQbuf m).busy = s.busy := rfl
@[simp] theorem State.withQbuf_done (s : State) (m : Mem QVal) : (s.withQbuf m).done = s.done := rfl
@[simp] theorem State.withQbuf_err (s : State) (m : Mem QVal) : (s.withQbuf m).err = s.err := rfl
@[simp] theorem State.withQbuf_warn (s : State) (m : Mem QVal) : (s.withQbuf m).warn = s.warn := rfl
@[simp] theorem State.withQbuf_busywr (s : State) (m : Mem QVal) : (s.withQbuf m).busywr = s.busywr := rfl
@[simp] theorem State.withQbuf_errcode (s : State) (m : Mem QVal) : (s.withQbuf m).errcode = s.errcode := rfl
@[simp] theorem State.withQbuf_errinfo (s : State) (m : Mem QVal) : (s.withQbuf m).errinfo = s.errinfo := rfl
@[simp] theorem State.withQbuf_errarg (s : State) (m : Mem QVal) : (s.withQbuf m).errarg = s.errarg := rfl
@[simp] theorem State.withQbuf_mode (s : State) (m : Mem QVal) : (s.withQbuf m).mode = s.mode := rfl
@[simp] theorem State.withQbuf_bpp (s : State) (m : Mem QVal) : (s.withQbuf m).bpp = s.bpp := rfl
@[simp] theorem State.withQbuf_padmode (s : State) (m : Mem QVal) : (s.withQbuf m).padmode = s.padmode := rfl
@[simp] theorem State.withQbuf_edtie (s : State) (m : Mem QVal) : (s.withQbuf m).edtie = s.edtie := rfl
@[simp] theorem State.withQbuf_width (s : State) (m : Mem QVal) : (s.withQbuf m).width = s.width := rfl
@[simp] theorem State.withQbuf_height (s : State) (m : Mem QVal) : (s.withQbuf m).height = s.height := rfl
@[simp] theorem State.withQbuf_krows (s : State) (m : Mem QVal) : (s.withQbuf m).krows = s.krows := rfl
@[simp] theorem State.withQbuf_kcols (s : State) (m : Mem QVal) : (s.withQbuf m).kcols = s.kcols := rfl
@[simp] theorem State.withQbuf_tsize (s : State) (m : Mem QVal) : (s.withQbuf m).tsize = s.tsize := rfl
@[simp] theorem State.withQbuf_outlen (s : State) (m : Mem QVal) : (s.withQbuf m).outlen = s.outlen := rfl
@[simp] theorem State.withQbuf_pending (s : State) (m : Mem QVal) : (s.withQbuf m).pending = s.pending := rfl
@[simp] theorem State.withQbuf_pix (s : State) (m : Mem QVal) : (s.withQbuf m).pix = s.pix := rfl
@[simp] theorem State.withQbuf_qbuf (s : State) (m : Mem QVal) : (s.withQbuf m).qbuf = m := rfl
@[simp] theorem State.withQbuf_out (s : State) (m : Mem QVal) : (s.withQbuf m).out = s.out := rfl
@[simp] theorem State.withQbuf_kmem (s : State) (m : Mem QVal) : (s.withQbuf m).kmem = s.kmem := rfl
@[simp] theorem State.withQbuf_tmem (s : State) (m : Mem QVal) : (s.withQbuf m).tmem = s.tmem := rfl
@[simp] theorem State.withQbuf_fresh (s : State) (m : Mem QVal) : (s.withQbuf m).fresh = s.fresh := rfl
@[simp] theorem State.withQbuf_agenda (s : State) (m : Mem QVal) : (s.withQbuf m).agenda = s.agenda := rfl
@[simp] theorem State.withQbuf_reply (s : State) (m : Mem QVal) : (s.withQbuf m).reply = s.reply := rfl

/-! ## withOut -/

@[simp] theorem State.withOut_irqen (s : State) (m : Mem Byte) : (s.withOut m).irqen = s.irqen := rfl
@[simp] theorem State.withOut_busy (s : State) (m : Mem Byte) : (s.withOut m).busy = s.busy := rfl
@[simp] theorem State.withOut_done (s : State) (m : Mem Byte) : (s.withOut m).done = s.done := rfl
@[simp] theorem State.withOut_err (s : State) (m : Mem Byte) : (s.withOut m).err = s.err := rfl
@[simp] theorem State.withOut_warn (s : State) (m : Mem Byte) : (s.withOut m).warn = s.warn := rfl
@[simp] theorem State.withOut_busywr (s : State) (m : Mem Byte) : (s.withOut m).busywr = s.busywr := rfl
@[simp] theorem State.withOut_errcode (s : State) (m : Mem Byte) : (s.withOut m).errcode = s.errcode := rfl
@[simp] theorem State.withOut_errinfo (s : State) (m : Mem Byte) : (s.withOut m).errinfo = s.errinfo := rfl
@[simp] theorem State.withOut_errarg (s : State) (m : Mem Byte) : (s.withOut m).errarg = s.errarg := rfl
@[simp] theorem State.withOut_mode (s : State) (m : Mem Byte) : (s.withOut m).mode = s.mode := rfl
@[simp] theorem State.withOut_bpp (s : State) (m : Mem Byte) : (s.withOut m).bpp = s.bpp := rfl
@[simp] theorem State.withOut_padmode (s : State) (m : Mem Byte) : (s.withOut m).padmode = s.padmode := rfl
@[simp] theorem State.withOut_edtie (s : State) (m : Mem Byte) : (s.withOut m).edtie = s.edtie := rfl
@[simp] theorem State.withOut_width (s : State) (m : Mem Byte) : (s.withOut m).width = s.width := rfl
@[simp] theorem State.withOut_height (s : State) (m : Mem Byte) : (s.withOut m).height = s.height := rfl
@[simp] theorem State.withOut_krows (s : State) (m : Mem Byte) : (s.withOut m).krows = s.krows := rfl
@[simp] theorem State.withOut_kcols (s : State) (m : Mem Byte) : (s.withOut m).kcols = s.kcols := rfl
@[simp] theorem State.withOut_tsize (s : State) (m : Mem Byte) : (s.withOut m).tsize = s.tsize := rfl
@[simp] theorem State.withOut_outlen (s : State) (m : Mem Byte) : (s.withOut m).outlen = s.outlen := rfl
@[simp] theorem State.withOut_pending (s : State) (m : Mem Byte) : (s.withOut m).pending = s.pending := rfl
@[simp] theorem State.withOut_pix (s : State) (m : Mem Byte) : (s.withOut m).pix = s.pix := rfl
@[simp] theorem State.withOut_qbuf (s : State) (m : Mem Byte) : (s.withOut m).qbuf = s.qbuf := rfl
@[simp] theorem State.withOut_out (s : State) (m : Mem Byte) : (s.withOut m).out = m := rfl
@[simp] theorem State.withOut_kmem (s : State) (m : Mem Byte) : (s.withOut m).kmem = s.kmem := rfl
@[simp] theorem State.withOut_tmem (s : State) (m : Mem Byte) : (s.withOut m).tmem = s.tmem := rfl
@[simp] theorem State.withOut_fresh (s : State) (m : Mem Byte) : (s.withOut m).fresh = s.fresh := rfl
@[simp] theorem State.withOut_agenda (s : State) (m : Mem Byte) : (s.withOut m).agenda = s.agenda := rfl
@[simp] theorem State.withOut_reply (s : State) (m : Mem Byte) : (s.withOut m).reply = s.reply := rfl

/-! ## withOutlen -/

@[simp] theorem State.withOutlen_irqen (s : State) (v : Word) : (s.withOutlen v).irqen = s.irqen := rfl
@[simp] theorem State.withOutlen_busy (s : State) (v : Word) : (s.withOutlen v).busy = s.busy := rfl
@[simp] theorem State.withOutlen_done (s : State) (v : Word) : (s.withOutlen v).done = s.done := rfl
@[simp] theorem State.withOutlen_err (s : State) (v : Word) : (s.withOutlen v).err = s.err := rfl
@[simp] theorem State.withOutlen_warn (s : State) (v : Word) : (s.withOutlen v).warn = s.warn := rfl
@[simp] theorem State.withOutlen_busywr (s : State) (v : Word) : (s.withOutlen v).busywr = s.busywr := rfl
@[simp] theorem State.withOutlen_errcode (s : State) (v : Word) : (s.withOutlen v).errcode = s.errcode := rfl
@[simp] theorem State.withOutlen_errinfo (s : State) (v : Word) : (s.withOutlen v).errinfo = s.errinfo := rfl
@[simp] theorem State.withOutlen_errarg (s : State) (v : Word) : (s.withOutlen v).errarg = s.errarg := rfl
@[simp] theorem State.withOutlen_mode (s : State) (v : Word) : (s.withOutlen v).mode = s.mode := rfl
@[simp] theorem State.withOutlen_bpp (s : State) (v : Word) : (s.withOutlen v).bpp = s.bpp := rfl
@[simp] theorem State.withOutlen_padmode (s : State) (v : Word) : (s.withOutlen v).padmode = s.padmode := rfl
@[simp] theorem State.withOutlen_edtie (s : State) (v : Word) : (s.withOutlen v).edtie = s.edtie := rfl
@[simp] theorem State.withOutlen_width (s : State) (v : Word) : (s.withOutlen v).width = s.width := rfl
@[simp] theorem State.withOutlen_height (s : State) (v : Word) : (s.withOutlen v).height = s.height := rfl
@[simp] theorem State.withOutlen_krows (s : State) (v : Word) : (s.withOutlen v).krows = s.krows := rfl
@[simp] theorem State.withOutlen_kcols (s : State) (v : Word) : (s.withOutlen v).kcols = s.kcols := rfl
@[simp] theorem State.withOutlen_tsize (s : State) (v : Word) : (s.withOutlen v).tsize = s.tsize := rfl
@[simp] theorem State.withOutlen_outlen (s : State) (v : Word) : (s.withOutlen v).outlen = v := rfl
@[simp] theorem State.withOutlen_pending (s : State) (v : Word) : (s.withOutlen v).pending = s.pending := rfl
@[simp] theorem State.withOutlen_pix (s : State) (v : Word) : (s.withOutlen v).pix = s.pix := rfl
@[simp] theorem State.withOutlen_qbuf (s : State) (v : Word) : (s.withOutlen v).qbuf = s.qbuf := rfl
@[simp] theorem State.withOutlen_out (s : State) (v : Word) : (s.withOutlen v).out = s.out := rfl
@[simp] theorem State.withOutlen_kmem (s : State) (v : Word) : (s.withOutlen v).kmem = s.kmem := rfl
@[simp] theorem State.withOutlen_tmem (s : State) (v : Word) : (s.withOutlen v).tmem = s.tmem := rfl
@[simp] theorem State.withOutlen_fresh (s : State) (v : Word) : (s.withOutlen v).fresh = s.fresh := rfl
@[simp] theorem State.withOutlen_agenda (s : State) (v : Word) : (s.withOutlen v).agenda = s.agenda := rfl
@[simp] theorem State.withOutlen_reply (s : State) (v : Word) : (s.withOutlen v).reply = s.reply := rfl

/-! ## accept -/

@[simp] theorem State.accept_irqen (s : State) (w : Word) : (s.accept w).irqen = s.irqen := rfl
@[simp] theorem State.accept_busy (s : State) (w : Word) : (s.accept w).busy = true := rfl
@[simp] theorem State.accept_done (s : State) (w : Word) : (s.accept w).done = false := rfl
@[simp] theorem State.accept_err (s : State) (w : Word) : (s.accept w).err = s.err := rfl
@[simp] theorem State.accept_warn (s : State) (w : Word) : (s.accept w).warn = s.warn := rfl
@[simp] theorem State.accept_busywr (s : State) (w : Word) : (s.accept w).busywr = s.busywr := rfl
@[simp] theorem State.accept_errcode (s : State) (w : Word) : (s.accept w).errcode = s.errcode := rfl
@[simp] theorem State.accept_errinfo (s : State) (w : Word) : (s.accept w).errinfo = s.errinfo := rfl
@[simp] theorem State.accept_errarg (s : State) (w : Word) : (s.accept w).errarg = s.errarg := rfl
@[simp] theorem State.accept_mode (s : State) (w : Word) : (s.accept w).mode = s.mode := rfl
@[simp] theorem State.accept_bpp (s : State) (w : Word) : (s.accept w).bpp = s.bpp := rfl
@[simp] theorem State.accept_padmode (s : State) (w : Word) : (s.accept w).padmode = s.padmode := rfl
@[simp] theorem State.accept_edtie (s : State) (w : Word) : (s.accept w).edtie = s.edtie := rfl
@[simp] theorem State.accept_width (s : State) (w : Word) : (s.accept w).width = s.width := rfl
@[simp] theorem State.accept_height (s : State) (w : Word) : (s.accept w).height = s.height := rfl
@[simp] theorem State.accept_krows (s : State) (w : Word) : (s.accept w).krows = s.krows := rfl
@[simp] theorem State.accept_kcols (s : State) (w : Word) : (s.accept w).kcols = s.kcols := rfl
@[simp] theorem State.accept_tsize (s : State) (w : Word) : (s.accept w).tsize = s.tsize := rfl
@[simp] theorem State.accept_outlen (s : State) (w : Word) : (s.accept w).outlen = s.outlen := rfl
@[simp] theorem State.accept_pending (s : State) (w : Word) : (s.accept w).pending = some w := rfl
@[simp] theorem State.accept_pix (s : State) (w : Word) : (s.accept w).pix = s.pix := rfl
@[simp] theorem State.accept_qbuf (s : State) (w : Word) : (s.accept w).qbuf = s.qbuf := rfl
@[simp] theorem State.accept_out (s : State) (w : Word) : (s.accept w).out = s.out := rfl
@[simp] theorem State.accept_kmem (s : State) (w : Word) : (s.accept w).kmem = s.kmem := rfl
@[simp] theorem State.accept_tmem (s : State) (w : Word) : (s.accept w).tmem = s.tmem := rfl
@[simp] theorem State.accept_fresh (s : State) (w : Word) : (s.accept w).fresh = s.fresh := rfl
@[simp] theorem State.accept_agenda (s : State) (w : Word) : (s.accept w).agenda = s.agenda := rfl
@[simp] theorem State.accept_reply (s : State) (w : Word) : (s.accept w).reply = s.reply := rfl

/-! ## complete -/

@[simp] theorem State.complete_irqen (s : State) (c i : Byte) (a : Word) (w : Bool) : (s.complete c i a w).irqen = s.irqen := rfl
@[simp] theorem State.complete_busy (s : State) (c i : Byte) (a : Word) (w : Bool) : (s.complete c i a w).busy = false := rfl
@[simp] theorem State.complete_done (s : State) (c i : Byte) (a : Word) (w : Bool) : (s.complete c i a w).done = true := rfl
@[simp] theorem State.complete_err (s : State) (c i : Byte) (a : Word) (w : Bool) : (s.complete c i a w).err = (s.err || c != 0#8) := rfl
@[simp] theorem State.complete_warn (s : State) (c i : Byte) (a : Word) (w : Bool) : (s.complete c i a w).warn = (s.warn || w) := rfl
@[simp] theorem State.complete_busywr (s : State) (c i : Byte) (a : Word) (w : Bool) : (s.complete c i a w).busywr = s.busywr := rfl
@[simp] theorem State.complete_errcode (s : State) (c i : Byte) (a : Word) (w : Bool) : (s.complete c i a w).errcode = c := rfl
@[simp] theorem State.complete_errinfo (s : State) (c i : Byte) (a : Word) (w : Bool) : (s.complete c i a w).errinfo = i := rfl
@[simp] theorem State.complete_errarg (s : State) (c i : Byte) (a : Word) (w : Bool) : (s.complete c i a w).errarg = a := rfl
@[simp] theorem State.complete_mode (s : State) (c i : Byte) (a : Word) (w : Bool) : (s.complete c i a w).mode = s.mode := rfl
@[simp] theorem State.complete_bpp (s : State) (c i : Byte) (a : Word) (w : Bool) : (s.complete c i a w).bpp = s.bpp := rfl
@[simp] theorem State.complete_padmode (s : State) (c i : Byte) (a : Word) (w : Bool) : (s.complete c i a w).padmode = s.padmode := rfl
@[simp] theorem State.complete_edtie (s : State) (c i : Byte) (a : Word) (w : Bool) : (s.complete c i a w).edtie = s.edtie := rfl
@[simp] theorem State.complete_width (s : State) (c i : Byte) (a : Word) (w : Bool) : (s.complete c i a w).width = s.width := rfl
@[simp] theorem State.complete_height (s : State) (c i : Byte) (a : Word) (w : Bool) : (s.complete c i a w).height = s.height := rfl
@[simp] theorem State.complete_krows (s : State) (c i : Byte) (a : Word) (w : Bool) : (s.complete c i a w).krows = s.krows := rfl
@[simp] theorem State.complete_kcols (s : State) (c i : Byte) (a : Word) (w : Bool) : (s.complete c i a w).kcols = s.kcols := rfl
@[simp] theorem State.complete_tsize (s : State) (c i : Byte) (a : Word) (w : Bool) : (s.complete c i a w).tsize = s.tsize := rfl
@[simp] theorem State.complete_outlen (s : State) (c i : Byte) (a : Word) (w : Bool) : (s.complete c i a w).outlen = s.outlen := rfl
@[simp] theorem State.complete_pending (s : State) (c i : Byte) (a : Word) (w : Bool) : (s.complete c i a w).pending = none := rfl
@[simp] theorem State.complete_pix (s : State) (c i : Byte) (a : Word) (w : Bool) : (s.complete c i a w).pix = s.pix := rfl
@[simp] theorem State.complete_qbuf (s : State) (c i : Byte) (a : Word) (w : Bool) : (s.complete c i a w).qbuf = s.qbuf := rfl
@[simp] theorem State.complete_out (s : State) (c i : Byte) (a : Word) (w : Bool) : (s.complete c i a w).out = s.out := rfl
@[simp] theorem State.complete_kmem (s : State) (c i : Byte) (a : Word) (w : Bool) : (s.complete c i a w).kmem = s.kmem := rfl
@[simp] theorem State.complete_tmem (s : State) (c i : Byte) (a : Word) (w : Bool) : (s.complete c i a w).tmem = s.tmem := rfl
@[simp] theorem State.complete_fresh (s : State) (c i : Byte) (a : Word) (w : Bool) : (s.complete c i a w).fresh = s.fresh := rfl
@[simp] theorem State.complete_agenda (s : State) (c i : Byte) (a : Word) (w : Bool) : (s.complete c i a w).agenda = s.agenda := rfl
@[simp] theorem State.complete_reply (s : State) (c i : Byte) (a : Word) (w : Bool) : (s.complete c i a w).reply = s.reply := rfl

/-! ## clearStatus -/

@[simp] theorem State.clearStatus_irqen (s : State) (v : Word) : (s.clearStatus v).irqen = s.irqen := rfl
@[simp] theorem State.clearStatus_busy (s : State) (v : Word) : (s.clearStatus v).busy = s.busy := rfl
@[simp] theorem State.clearStatus_done (s : State) (v : Word) : (s.clearStatus v).done = (s.done && !v.getLsbD 1) := rfl
@[simp] theorem State.clearStatus_err (s : State) (v : Word) : (s.clearStatus v).err = (s.err && !v.getLsbD 2) := rfl
@[simp] theorem State.clearStatus_warn (s : State) (v : Word) : (s.clearStatus v).warn = (s.warn && !v.getLsbD 3) := rfl
@[simp] theorem State.clearStatus_busywr (s : State) (v : Word) : (s.clearStatus v).busywr = (s.busywr && !v.getLsbD 4) := rfl
@[simp] theorem State.clearStatus_errcode (s : State) (v : Word) : (s.clearStatus v).errcode = s.errcode := rfl
@[simp] theorem State.clearStatus_errinfo (s : State) (v : Word) : (s.clearStatus v).errinfo = s.errinfo := rfl
@[simp] theorem State.clearStatus_errarg (s : State) (v : Word) : (s.clearStatus v).errarg = s.errarg := rfl
@[simp] theorem State.clearStatus_mode (s : State) (v : Word) : (s.clearStatus v).mode = s.mode := rfl
@[simp] theorem State.clearStatus_bpp (s : State) (v : Word) : (s.clearStatus v).bpp = s.bpp := rfl
@[simp] theorem State.clearStatus_padmode (s : State) (v : Word) : (s.clearStatus v).padmode = s.padmode := rfl
@[simp] theorem State.clearStatus_edtie (s : State) (v : Word) : (s.clearStatus v).edtie = s.edtie := rfl
@[simp] theorem State.clearStatus_width (s : State) (v : Word) : (s.clearStatus v).width = s.width := rfl
@[simp] theorem State.clearStatus_height (s : State) (v : Word) : (s.clearStatus v).height = s.height := rfl
@[simp] theorem State.clearStatus_krows (s : State) (v : Word) : (s.clearStatus v).krows = s.krows := rfl
@[simp] theorem State.clearStatus_kcols (s : State) (v : Word) : (s.clearStatus v).kcols = s.kcols := rfl
@[simp] theorem State.clearStatus_tsize (s : State) (v : Word) : (s.clearStatus v).tsize = s.tsize := rfl
@[simp] theorem State.clearStatus_outlen (s : State) (v : Word) : (s.clearStatus v).outlen = s.outlen := rfl
@[simp] theorem State.clearStatus_pending (s : State) (v : Word) : (s.clearStatus v).pending = s.pending := rfl
@[simp] theorem State.clearStatus_pix (s : State) (v : Word) : (s.clearStatus v).pix = s.pix := rfl
@[simp] theorem State.clearStatus_qbuf (s : State) (v : Word) : (s.clearStatus v).qbuf = s.qbuf := rfl
@[simp] theorem State.clearStatus_out (s : State) (v : Word) : (s.clearStatus v).out = s.out := rfl
@[simp] theorem State.clearStatus_kmem (s : State) (v : Word) : (s.clearStatus v).kmem = s.kmem := rfl
@[simp] theorem State.clearStatus_tmem (s : State) (v : Word) : (s.clearStatus v).tmem = s.tmem := rfl
@[simp] theorem State.clearStatus_fresh (s : State) (v : Word) : (s.clearStatus v).fresh = s.fresh := rfl
@[simp] theorem State.clearStatus_agenda (s : State) (v : Word) : (s.clearStatus v).agenda = s.agenda := rfl
@[simp] theorem State.clearStatus_reply (s : State) (v : Word) : (s.clearStatus v).reply = s.reply := rfl

/-! ## writeCfg -/

@[simp] theorem State.writeCfg_irqen (s : State) (v : Word) : (s.writeCfg v).irqen = s.irqen := rfl
@[simp] theorem State.writeCfg_busy (s : State) (v : Word) : (s.writeCfg v).busy = s.busy := rfl
@[simp] theorem State.writeCfg_done (s : State) (v : Word) : (s.writeCfg v).done = s.done := rfl
@[simp] theorem State.writeCfg_err (s : State) (v : Word) : (s.writeCfg v).err = s.err := rfl
@[simp] theorem State.writeCfg_warn (s : State) (v : Word) : (s.writeCfg v).warn = s.warn := rfl
@[simp] theorem State.writeCfg_busywr (s : State) (v : Word) : (s.writeCfg v).busywr = s.busywr := rfl
@[simp] theorem State.writeCfg_errcode (s : State) (v : Word) : (s.writeCfg v).errcode = s.errcode := rfl
@[simp] theorem State.writeCfg_errinfo (s : State) (v : Word) : (s.writeCfg v).errinfo = s.errinfo := rfl
@[simp] theorem State.writeCfg_errarg (s : State) (v : Word) : (s.writeCfg v).errarg = s.errarg := rfl
@[simp] theorem State.writeCfg_mode (s : State) (v : Word) : (s.writeCfg v).mode = v.extractLsb' 0 2 := rfl
@[simp] theorem State.writeCfg_bpp (s : State) (v : Word) : (s.writeCfg v).bpp = v.extractLsb' 4 2 := rfl
@[simp] theorem State.writeCfg_padmode (s : State) (v : Word) : (s.writeCfg v).padmode = v.extractLsb' 8 2 := rfl
@[simp] theorem State.writeCfg_edtie (s : State) (v : Word) : (s.writeCfg v).edtie = v.getLsbD 12 := rfl
@[simp] theorem State.writeCfg_width (s : State) (v : Word) : (s.writeCfg v).width = s.width := rfl
@[simp] theorem State.writeCfg_height (s : State) (v : Word) : (s.writeCfg v).height = s.height := rfl
@[simp] theorem State.writeCfg_krows (s : State) (v : Word) : (s.writeCfg v).krows = s.krows := rfl
@[simp] theorem State.writeCfg_kcols (s : State) (v : Word) : (s.writeCfg v).kcols = s.kcols := rfl
@[simp] theorem State.writeCfg_tsize (s : State) (v : Word) : (s.writeCfg v).tsize = s.tsize := rfl
@[simp] theorem State.writeCfg_outlen (s : State) (v : Word) : (s.writeCfg v).outlen = s.outlen := rfl
@[simp] theorem State.writeCfg_pending (s : State) (v : Word) : (s.writeCfg v).pending = s.pending := rfl
@[simp] theorem State.writeCfg_pix (s : State) (v : Word) : (s.writeCfg v).pix = s.pix := rfl
@[simp] theorem State.writeCfg_qbuf (s : State) (v : Word) : (s.writeCfg v).qbuf = s.qbuf := rfl
@[simp] theorem State.writeCfg_out (s : State) (v : Word) : (s.writeCfg v).out = s.out := rfl
@[simp] theorem State.writeCfg_kmem (s : State) (v : Word) : (s.writeCfg v).kmem = s.kmem := rfl
@[simp] theorem State.writeCfg_tmem (s : State) (v : Word) : (s.writeCfg v).tmem = s.tmem := rfl
@[simp] theorem State.writeCfg_fresh (s : State) (v : Word) : (s.writeCfg v).fresh = s.fresh := rfl
@[simp] theorem State.writeCfg_agenda (s : State) (v : Word) : (s.writeCfg v).agenda = s.agenda := rfl
@[simp] theorem State.writeCfg_reply (s : State) (v : Word) : (s.writeCfg v).reply = s.reply := rfl

/-! ## clearConfig -/

@[simp] theorem State.clearConfig_irqen (s : State) : (s.clearConfig).irqen = false := rfl
@[simp] theorem State.clearConfig_busy (s : State) : (s.clearConfig).busy = s.busy := rfl
@[simp] theorem State.clearConfig_done (s : State) : (s.clearConfig).done = s.done := rfl
@[simp] theorem State.clearConfig_err (s : State) : (s.clearConfig).err = false := rfl
@[simp] theorem State.clearConfig_warn (s : State) : (s.clearConfig).warn = false := rfl
@[simp] theorem State.clearConfig_busywr (s : State) : (s.clearConfig).busywr = false := rfl
@[simp] theorem State.clearConfig_errcode (s : State) : (s.clearConfig).errcode = s.errcode := rfl
@[simp] theorem State.clearConfig_errinfo (s : State) : (s.clearConfig).errinfo = s.errinfo := rfl
@[simp] theorem State.clearConfig_errarg (s : State) : (s.clearConfig).errarg = s.errarg := rfl
@[simp] theorem State.clearConfig_mode (s : State) : (s.clearConfig).mode = 0#2 := rfl
@[simp] theorem State.clearConfig_bpp (s : State) : (s.clearConfig).bpp = 0#2 := rfl
@[simp] theorem State.clearConfig_padmode (s : State) : (s.clearConfig).padmode = 0#2 := rfl
@[simp] theorem State.clearConfig_edtie (s : State) : (s.clearConfig).edtie = false := rfl
@[simp] theorem State.clearConfig_width (s : State) : (s.clearConfig).width = 0#32 := rfl
@[simp] theorem State.clearConfig_height (s : State) : (s.clearConfig).height = 0#32 := rfl
@[simp] theorem State.clearConfig_krows (s : State) : (s.clearConfig).krows = 0#32 := rfl
@[simp] theorem State.clearConfig_kcols (s : State) : (s.clearConfig).kcols = 0#32 := rfl
@[simp] theorem State.clearConfig_tsize (s : State) : (s.clearConfig).tsize = 0#32 := rfl
@[simp] theorem State.clearConfig_outlen (s : State) : (s.clearConfig).outlen = 0#32 := rfl
@[simp] theorem State.clearConfig_pending (s : State) : (s.clearConfig).pending = s.pending := rfl
@[simp] theorem State.clearConfig_pix (s : State) : (s.clearConfig).pix = s.pix := rfl
@[simp] theorem State.clearConfig_qbuf (s : State) : (s.clearConfig).qbuf = s.qbuf := rfl
@[simp] theorem State.clearConfig_out (s : State) : (s.clearConfig).out = s.out := rfl
@[simp] theorem State.clearConfig_kmem (s : State) : (s.clearConfig).kmem = s.kmem := rfl
@[simp] theorem State.clearConfig_tmem (s : State) : (s.clearConfig).tmem = s.tmem := rfl
@[simp] theorem State.clearConfig_fresh (s : State) : (s.clearConfig).fresh = s.fresh := rfl
@[simp] theorem State.clearConfig_agenda (s : State) : (s.clearConfig).agenda = s.agenda := rfl
@[simp] theorem State.clearConfig_reply (s : State) : (s.clearConfig).reply = s.reply := rfl

/-! ## clearRegisters -/

@[simp] theorem State.clearRegisters_irqen (s : State) : (s.clearRegisters).irqen = false := rfl
@[simp] theorem State.clearRegisters_busy (s : State) : (s.clearRegisters).busy = false := rfl
@[simp] theorem State.clearRegisters_done (s : State) : (s.clearRegisters).done = false := rfl
@[simp] theorem State.clearRegisters_err (s : State) : (s.clearRegisters).err = false := rfl
@[simp] theorem State.clearRegisters_warn (s : State) : (s.clearRegisters).warn = false := rfl
@[simp] theorem State.clearRegisters_busywr (s : State) : (s.clearRegisters).busywr = false := rfl
@[simp] theorem State.clearRegisters_errcode (s : State) : (s.clearRegisters).errcode = 0#8 := rfl
@[simp] theorem State.clearRegisters_errinfo (s : State) : (s.clearRegisters).errinfo = 0#8 := rfl
@[simp] theorem State.clearRegisters_errarg (s : State) : (s.clearRegisters).errarg = 0#32 := rfl
@[simp] theorem State.clearRegisters_mode (s : State) : (s.clearRegisters).mode = 0#2 := rfl
@[simp] theorem State.clearRegisters_bpp (s : State) : (s.clearRegisters).bpp = 0#2 := rfl
@[simp] theorem State.clearRegisters_padmode (s : State) : (s.clearRegisters).padmode = 0#2 := rfl
@[simp] theorem State.clearRegisters_edtie (s : State) : (s.clearRegisters).edtie = false := rfl
@[simp] theorem State.clearRegisters_width (s : State) : (s.clearRegisters).width = 0#32 := rfl
@[simp] theorem State.clearRegisters_height (s : State) : (s.clearRegisters).height = 0#32 := rfl
@[simp] theorem State.clearRegisters_krows (s : State) : (s.clearRegisters).krows = 0#32 := rfl
@[simp] theorem State.clearRegisters_kcols (s : State) : (s.clearRegisters).kcols = 0#32 := rfl
@[simp] theorem State.clearRegisters_tsize (s : State) : (s.clearRegisters).tsize = 0#32 := rfl
@[simp] theorem State.clearRegisters_outlen (s : State) : (s.clearRegisters).outlen = 0#32 := rfl
@[simp] theorem State.clearRegisters_pending (s : State) : (s.clearRegisters).pending = none := rfl
@[simp] theorem State.clearRegisters_pix (s : State) : (s.clearRegisters).pix = s.pix := rfl
@[simp] theorem State.clearRegisters_qbuf (s : State) : (s.clearRegisters).qbuf = s.qbuf := rfl
@[simp] theorem State.clearRegisters_out (s : State) : (s.clearRegisters).out = s.out := rfl
@[simp] theorem State.clearRegisters_kmem (s : State) : (s.clearRegisters).kmem = s.kmem := rfl
@[simp] theorem State.clearRegisters_tmem (s : State) : (s.clearRegisters).tmem = s.tmem := rfl
@[simp] theorem State.clearRegisters_fresh (s : State) : (s.clearRegisters).fresh = s.fresh := rfl
@[simp] theorem State.clearRegisters_agenda (s : State) : (s.clearRegisters).agenda = s.agenda := rfl
@[simp] theorem State.clearRegisters_reply (s : State) : (s.clearRegisters).reply = s.reply := rfl

/-! ## Completion and errors in terms of `complete` -/

@[simp] theorem State.completeOk_eq (s : State) (w : Bool) : s.completeOk w = s.complete 0#8 0#8 0#32 w := rfl
@[simp] theorem State.raise_eq (s : State) (e : CmdError) : s.raise e = s.complete e.code.code e.info e.arg false := rfl

/-! ## Derived operands -/

@[simp] theorem State.withFresh_W (s : State) (n : Nat) : (s.withFresh n).W = s.W := rfl
@[simp] theorem State.withFresh_H (s : State) (n : Nat) : (s.withFresh n).H = s.H := rfl
@[simp] theorem State.withFresh_N (s : State) (n : Nat) : (s.withFresh n).N = s.N := rfl
@[simp] theorem State.withFresh_BPP (s : State) (n : Nat) : (s.withFresh n).BPP = s.BPP := rfl
@[simp] theorem State.withFresh_L (s : State) (n : Nat) : (s.withFresh n).L = s.L := rfl
@[simp] theorem State.withFresh_L1 (s : State) (n : Nat) : (s.withFresh n).L1 = s.L1 := rfl
@[simp] theorem State.withFresh_G (s : State) (n : Nat) : (s.withFresh n).G = s.G := rfl
@[simp] theorem State.withFresh_KR (s : State) (n : Nat) : (s.withFresh n).KR = s.KR := rfl
@[simp] theorem State.withFresh_KC (s : State) (n : Nat) : (s.withFresh n).KC = s.KC := rfl
@[simp] theorem State.withFresh_mid (s : State) (n : Nat) : (s.withFresh n).mid = s.mid := rfl
@[simp] theorem State.withFresh_T (s : State) (n : Nat) : (s.withFresh n).T = s.T := rfl
@[simp] theorem State.withFresh_MODE (s : State) (n : Nat) : (s.withFresh n).MODE = s.MODE := rfl
@[simp] theorem State.withFresh_PAD (s : State) (n : Nat) : (s.withFresh n).PAD = s.PAD := rfl
@[simp] theorem State.withFresh_TIE (s : State) (n : Nat) : (s.withFresh n).TIE = s.TIE := rfl
@[simp] theorem State.withFresh_bilevel (s : State) (n : Nat) (x : Bool) : (s.withFresh n).bilevel x = s.bilevel x := rfl

@[simp] theorem State.withReply_W (s : State) (r : Reply) : (s.withReply r).W = s.W := rfl
@[simp] theorem State.withReply_H (s : State) (r : Reply) : (s.withReply r).H = s.H := rfl
@[simp] theorem State.withReply_N (s : State) (r : Reply) : (s.withReply r).N = s.N := rfl
@[simp] theorem State.withReply_BPP (s : State) (r : Reply) : (s.withReply r).BPP = s.BPP := rfl
@[simp] theorem State.withReply_L (s : State) (r : Reply) : (s.withReply r).L = s.L := rfl
@[simp] theorem State.withReply_L1 (s : State) (r : Reply) : (s.withReply r).L1 = s.L1 := rfl
@[simp] theorem State.withReply_G (s : State) (r : Reply) : (s.withReply r).G = s.G := rfl
@[simp] theorem State.withReply_KR (s : State) (r : Reply) : (s.withReply r).KR = s.KR := rfl
@[simp] theorem State.withReply_KC (s : State) (r : Reply) : (s.withReply r).KC = s.KC := rfl
@[simp] theorem State.withReply_mid (s : State) (r : Reply) : (s.withReply r).mid = s.mid := rfl
@[simp] theorem State.withReply_T (s : State) (r : Reply) : (s.withReply r).T = s.T := rfl
@[simp] theorem State.withReply_MODE (s : State) (r : Reply) : (s.withReply r).MODE = s.MODE := rfl
@[simp] theorem State.withReply_PAD (s : State) (r : Reply) : (s.withReply r).PAD = s.PAD := rfl
@[simp] theorem State.withReply_TIE (s : State) (r : Reply) : (s.withReply r).TIE = s.TIE := rfl
@[simp] theorem State.withReply_bilevel (s : State) (r : Reply) (x : Bool) : (s.withReply r).bilevel x = s.bilevel x := rfl

@[simp] theorem State.withAgenda_W (s : State) (l : List Event) : (s.withAgenda l).W = s.W := rfl
@[simp] theorem State.withAgenda_H (s : State) (l : List Event) : (s.withAgenda l).H = s.H := rfl
@[simp] theorem State.withAgenda_N (s : State) (l : List Event) : (s.withAgenda l).N = s.N := rfl
@[simp] theorem State.withAgenda_BPP (s : State) (l : List Event) : (s.withAgenda l).BPP = s.BPP := rfl
@[simp] theorem State.withAgenda_L (s : State) (l : List Event) : (s.withAgenda l).L = s.L := rfl
@[simp] theorem State.withAgenda_L1 (s : State) (l : List Event) : (s.withAgenda l).L1 = s.L1 := rfl
@[simp] theorem State.withAgenda_G (s : State) (l : List Event) : (s.withAgenda l).G = s.G := rfl
@[simp] theorem State.withAgenda_KR (s : State) (l : List Event) : (s.withAgenda l).KR = s.KR := rfl
@[simp] theorem State.withAgenda_KC (s : State) (l : List Event) : (s.withAgenda l).KC = s.KC := rfl
@[simp] theorem State.withAgenda_mid (s : State) (l : List Event) : (s.withAgenda l).mid = s.mid := rfl
@[simp] theorem State.withAgenda_T (s : State) (l : List Event) : (s.withAgenda l).T = s.T := rfl
@[simp] theorem State.withAgenda_MODE (s : State) (l : List Event) : (s.withAgenda l).MODE = s.MODE := rfl
@[simp] theorem State.withAgenda_PAD (s : State) (l : List Event) : (s.withAgenda l).PAD = s.PAD := rfl
@[simp] theorem State.withAgenda_TIE (s : State) (l : List Event) : (s.withAgenda l).TIE = s.TIE := rfl
@[simp] theorem State.withAgenda_bilevel (s : State) (l : List Event) (x : Bool) : (s.withAgenda l).bilevel x = s.bilevel x := rfl

@[simp] theorem State.withQbuf_W (s : State) (m : Mem QVal) : (s.withQbuf m).W = s.W := rfl
@[simp] theorem State.withQbuf_H (s : State) (m : Mem QVal) : (s.withQbuf m).H = s.H := rfl
@[simp] theorem State.withQbuf_N (s : State) (m : Mem QVal) : (s.withQbuf m).N = s.N := rfl
@[simp] theorem State.withQbuf_BPP (s : State) (m : Mem QVal) : (s.withQbuf m).BPP = s.BPP := rfl
@[simp] theorem State.withQbuf_L (s : State) (m : Mem QVal) : (s.withQbuf m).L = s.L := rfl
@[simp] theorem State.withQbuf_L1 (s : State) (m : Mem QVal) : (s.withQbuf m).L1 = s.L1 := rfl
@[simp] theorem State.withQbuf_G (s : State) (m : Mem QVal) : (s.withQbuf m).G = s.G := rfl
@[simp] theorem State.withQbuf_KR (s : State) (m : Mem QVal) : (s.withQbuf m).KR = s.KR := rfl
@[simp] theorem State.withQbuf_KC (s : State) (m : Mem QVal) : (s.withQbuf m).KC = s.KC := rfl
@[simp] theorem State.withQbuf_mid (s : State) (m : Mem QVal) : (s.withQbuf m).mid = s.mid := rfl
@[simp] theorem State.withQbuf_T (s : State) (m : Mem QVal) : (s.withQbuf m).T = s.T := rfl
@[simp] theorem State.withQbuf_MODE (s : State) (m : Mem QVal) : (s.withQbuf m).MODE = s.MODE := rfl
@[simp] theorem State.withQbuf_PAD (s : State) (m : Mem QVal) : (s.withQbuf m).PAD = s.PAD := rfl
@[simp] theorem State.withQbuf_TIE (s : State) (m : Mem QVal) : (s.withQbuf m).TIE = s.TIE := rfl
@[simp] theorem State.withQbuf_bilevel (s : State) (m : Mem QVal) (x : Bool) : (s.withQbuf m).bilevel x = s.bilevel x := rfl

@[simp] theorem State.withOut_W (s : State) (m : Mem Byte) : (s.withOut m).W = s.W := rfl
@[simp] theorem State.withOut_H (s : State) (m : Mem Byte) : (s.withOut m).H = s.H := rfl
@[simp] theorem State.withOut_N (s : State) (m : Mem Byte) : (s.withOut m).N = s.N := rfl
@[simp] theorem State.withOut_BPP (s : State) (m : Mem Byte) : (s.withOut m).BPP = s.BPP := rfl
@[simp] theorem State.withOut_L (s : State) (m : Mem Byte) : (s.withOut m).L = s.L := rfl
@[simp] theorem State.withOut_L1 (s : State) (m : Mem Byte) : (s.withOut m).L1 = s.L1 := rfl
@[simp] theorem State.withOut_G (s : State) (m : Mem Byte) : (s.withOut m).G = s.G := rfl
@[simp] theorem State.withOut_KR (s : State) (m : Mem Byte) : (s.withOut m).KR = s.KR := rfl
@[simp] theorem State.withOut_KC (s : State) (m : Mem Byte) : (s.withOut m).KC = s.KC := rfl
@[simp] theorem State.withOut_mid (s : State) (m : Mem Byte) : (s.withOut m).mid = s.mid := rfl
@[simp] theorem State.withOut_T (s : State) (m : Mem Byte) : (s.withOut m).T = s.T := rfl
@[simp] theorem State.withOut_MODE (s : State) (m : Mem Byte) : (s.withOut m).MODE = s.MODE := rfl
@[simp] theorem State.withOut_PAD (s : State) (m : Mem Byte) : (s.withOut m).PAD = s.PAD := rfl
@[simp] theorem State.withOut_TIE (s : State) (m : Mem Byte) : (s.withOut m).TIE = s.TIE := rfl
@[simp] theorem State.withOut_bilevel (s : State) (m : Mem Byte) (x : Bool) : (s.withOut m).bilevel x = s.bilevel x := rfl

@[simp] theorem State.withOutlen_W (s : State) (v : Word) : (s.withOutlen v).W = s.W := rfl
@[simp] theorem State.withOutlen_H (s : State) (v : Word) : (s.withOutlen v).H = s.H := rfl
@[simp] theorem State.withOutlen_N (s : State) (v : Word) : (s.withOutlen v).N = s.N := rfl
@[simp] theorem State.withOutlen_BPP (s : State) (v : Word) : (s.withOutlen v).BPP = s.BPP := rfl
@[simp] theorem State.withOutlen_L (s : State) (v : Word) : (s.withOutlen v).L = s.L := rfl
@[simp] theorem State.withOutlen_L1 (s : State) (v : Word) : (s.withOutlen v).L1 = s.L1 := rfl
@[simp] theorem State.withOutlen_G (s : State) (v : Word) : (s.withOutlen v).G = s.G := rfl
@[simp] theorem State.withOutlen_KR (s : State) (v : Word) : (s.withOutlen v).KR = s.KR := rfl
@[simp] theorem State.withOutlen_KC (s : State) (v : Word) : (s.withOutlen v).KC = s.KC := rfl
@[simp] theorem State.withOutlen_mid (s : State) (v : Word) : (s.withOutlen v).mid = s.mid := rfl
@[simp] theorem State.withOutlen_T (s : State) (v : Word) : (s.withOutlen v).T = s.T := rfl
@[simp] theorem State.withOutlen_MODE (s : State) (v : Word) : (s.withOutlen v).MODE = s.MODE := rfl
@[simp] theorem State.withOutlen_PAD (s : State) (v : Word) : (s.withOutlen v).PAD = s.PAD := rfl
@[simp] theorem State.withOutlen_TIE (s : State) (v : Word) : (s.withOutlen v).TIE = s.TIE := rfl
@[simp] theorem State.withOutlen_bilevel (s : State) (v : Word) (x : Bool) : (s.withOutlen v).bilevel x = s.bilevel x := rfl

@[simp] theorem State.accept_W (s : State) (w : Word) : (s.accept w).W = s.W := rfl
@[simp] theorem State.accept_H (s : State) (w : Word) : (s.accept w).H = s.H := rfl
@[simp] theorem State.accept_N (s : State) (w : Word) : (s.accept w).N = s.N := rfl
@[simp] theorem State.accept_BPP (s : State) (w : Word) : (s.accept w).BPP = s.BPP := rfl
@[simp] theorem State.accept_L (s : State) (w : Word) : (s.accept w).L = s.L := rfl
@[simp] theorem State.accept_L1 (s : State) (w : Word) : (s.accept w).L1 = s.L1 := rfl
@[simp] theorem State.accept_G (s : State) (w : Word) : (s.accept w).G = s.G := rfl
@[simp] theorem State.accept_KR (s : State) (w : Word) : (s.accept w).KR = s.KR := rfl
@[simp] theorem State.accept_KC (s : State) (w : Word) : (s.accept w).KC = s.KC := rfl
@[simp] theorem State.accept_mid (s : State) (w : Word) : (s.accept w).mid = s.mid := rfl
@[simp] theorem State.accept_T (s : State) (w : Word) : (s.accept w).T = s.T := rfl
@[simp] theorem State.accept_MODE (s : State) (w : Word) : (s.accept w).MODE = s.MODE := rfl
@[simp] theorem State.accept_PAD (s : State) (w : Word) : (s.accept w).PAD = s.PAD := rfl
@[simp] theorem State.accept_TIE (s : State) (w : Word) : (s.accept w).TIE = s.TIE := rfl
@[simp] theorem State.accept_bilevel (s : State) (w : Word) (x : Bool) : (s.accept w).bilevel x = s.bilevel x := rfl

@[simp] theorem State.complete_W (s : State) (c i : Byte) (a : Word) (w : Bool) : (s.complete c i a w).W = s.W := rfl
@[simp] theorem State.complete_H (s : State) (c i : Byte) (a : Word) (w : Bool) : (s.complete c i a w).H = s.H := rfl
@[simp] theorem State.complete_N (s : State) (c i : Byte) (a : Word) (w : Bool) : (s.complete c i a w).N = s.N := rfl
@[simp] theorem State.complete_BPP (s : State) (c i : Byte) (a : Word) (w : Bool) : (s.complete c i a w).BPP = s.BPP := rfl
@[simp] theorem State.complete_L (s : State) (c i : Byte) (a : Word) (w : Bool) : (s.complete c i a w).L = s.L := rfl
@[simp] theorem State.complete_L1 (s : State) (c i : Byte) (a : Word) (w : Bool) : (s.complete c i a w).L1 = s.L1 := rfl
@[simp] theorem State.complete_G (s : State) (c i : Byte) (a : Word) (w : Bool) : (s.complete c i a w).G = s.G := rfl
@[simp] theorem State.complete_KR (s : State) (c i : Byte) (a : Word) (w : Bool) : (s.complete c i a w).KR = s.KR := rfl
@[simp] theorem State.complete_KC (s : State) (c i : Byte) (a : Word) (w : Bool) : (s.complete c i a w).KC = s.KC := rfl
@[simp] theorem State.complete_mid (s : State) (c i : Byte) (a : Word) (w : Bool) : (s.complete c i a w).mid = s.mid := rfl
@[simp] theorem State.complete_T (s : State) (c i : Byte) (a : Word) (w : Bool) : (s.complete c i a w).T = s.T := rfl
@[simp] theorem State.complete_MODE (s : State) (c i : Byte) (a : Word) (w : Bool) : (s.complete c i a w).MODE = s.MODE := rfl
@[simp] theorem State.complete_PAD (s : State) (c i : Byte) (a : Word) (w : Bool) : (s.complete c i a w).PAD = s.PAD := rfl
@[simp] theorem State.complete_TIE (s : State) (c i : Byte) (a : Word) (w : Bool) : (s.complete c i a w).TIE = s.TIE := rfl
@[simp] theorem State.complete_bilevel (s : State) (c i : Byte) (a : Word) (w : Bool) (x : Bool) : (s.complete c i a w).bilevel x = s.bilevel x := rfl

end Sys2Proof.Machine
end

