-- ==== Sys2Proof/Laws/Bus.lean ====
section
/-! SUPPORT. The host window: what an admitted access is, and what a read or a write can do. -/

namespace Sys2Proof.Machine

theorem inRegion_iff {P : Params} {off : Nat} {r : Region} :
    inRegion P off r = true ↔ regionBase r ≤ off ∧ off < regionBase r + regionSize P r := by
  simp only [inRegion, Bool.and_eq_true, decide_eq_true_eq]

/-- The regions of a well-formed build are disjoint (spec/20_memory.md R62). -/
theorem inRegion_unique {P : Params} (hP : P.wf = true) {off : Nat} {r r' : Region} (h : inRegion P off r = true)
    (h' : inRegion P off r' = true) : r = r' := by
  rw [inRegion_iff] at h h'
  obtain ⟨hr, hc, ht, -, hp, -, -, -⟩ := Params.wf_bounds hP
  have hk : P.krMax * P.kcMax ≤ 15 * 15 := Nat.mul_le_mul hr hc
  have ht : P.tMax * P.tMax ≤ 255 * 255 := Nat.mul_le_mul ht ht
  cases r <;> cases r' <;> simp only [regionBase, regionSize] at h h' ⊢ <;> omega

theorem regionAt_iff {P : Params} (hP : P.wf = true) {off : Nat} {r : Region} :
    regionAt P off = some r ↔ inRegion P off r = true := by
  refine ⟨fun h => List.find?_some h, fun h => ?_⟩
  cases hr : regionAt P off with
  | none =>
    rw [regionAt, List.find?_eq_none] at hr
    exact absurd h (hr r (by cases r <;> simp))
  | some r' => rw [inRegion_unique hP h (List.find?_some hr)]

/-- An access that the window admits is aligned, wholly inside its region, and of four bytes in the CSR region. -/
theorem accessRegion_some {P : Params} {off n : Nat} {r : Region} (h : accessRegion P off n = some r) :
    off % n = 0 ∧ regionBase r ≤ off ∧ off < regionBase r + regionSize P r ∧
      off + n - 1 < regionBase r + regionSize P r ∧ (r = .csr → n = 4) ∧ regionAt P off = some r := by
  unfold accessRegion at h
  split at h
  · cases h
  · next r' hr =>
    split at h
    · next hc =>
      injection h with h; subst h
      have := List.find?_some hr
      simp only [inRegion, Bool.and_eq_true, decide_eq_true_eq] at this hc
      exact ⟨hc.1, this.1, this.2, hc.2.1.2, hc.2.2, hr⟩
    · cases h

/-- A refused access answers BusError and changes nothing else (spec/20_memory.md R72). -/
theorem busRead_refused {P : Params} {off n : Nat} (h : accessRegion P off n = none) (s : State) :
    s.busRead P off n = s.withReply .busError := by
  unfold State.busRead; rw [h]

theorem busWrite_refused {P : Params} {off n : Nat} (h : accessRegion P off n = none) (s : State) (v : Word) :
    s.busWrite P off n v = s.withReply .busError := by
  unfold State.busWrite; rw [h]

/-- A read changes the response and the count of free values alone (R76). -/
theorem busRead_frame (P : Params) (off n : Nat) (s : State) :
    s.busRead P off n = { s with reply := (s.busRead P off n).reply, fresh := (s.busRead P off n).fresh } := by
  unfold State.busRead
  split <;> rfl

/-- What an admitted read of the CSR region answers, BUSY or not (spec/20_memory.md R63, R71). -/
theorem busRead_csr {P : Params} {off n : Nat} (h : accessRegion P off n = some .csr) (s : State) :
    s.busRead P off n = s.withReply (.data (csrRegionRead P s off)) := by
  unfold State.busRead; rw [h]

/-- The bytes of a value, read back as a number (spec/20_memory.md R73). -/
theorem natOfBytes_bytesOf (n : Width) (v : Word) (hv : v.toNat < 2 ^ (8 * n.bytes)) :
    natOfBytes (bytesOf n.bytes v) = v.toNat := by
  cases n <;>
  · simp only [Width.bytes] at hv
    simp only [Width.bytes, bytesOf, List.range, List.range.loop, List.map, natOfBytes, BitVec.extractLsb'_toNat,
      Nat.shiftRight_eq_div_pow]
    omega

/-- A read that the window admits returns data. -/
theorem busRead_data {P : Params} {off n : Nat} {r : Region} (h : accessRegion P off n = some r) (s : State) :
    ∃ v, (s.busRead P off n).reply = some (.data v) := by
  unfold State.busRead
  rw [h]
  cases r <;> exact ⟨_, rfl⟩

/-- What a write can do: be refused, be dropped, write a register, or write one local memory. -/
theorem busWrite_cases (P : Params) (off n : Nat) (v : Word) (s : State) :
    (accessRegion P off n = none ∧ s.busWrite P off n v = s.withReply .busError) ∨
    (accessRegion P off n ≠ none ∧ s.busy = true ∧
      s.busWrite P off n v = ({ s with busywr := true } : State).withReply .ok) ∨
    (accessRegion P off n = some .csr ∧ s.busy = false ∧
      s.busWrite P off n v = (csrRegionWrite s off v).withReply .ok) ∨
    (∃ r, accessRegion P off n = some r ∧ r ≠ .csr ∧ s.busy = false ∧
      s.busWrite P off n v = (s.writeRegion (off - regionBase r) (bytesOf n v) r).withReply .ok) := by
  unfold State.busWrite
  cases h : accessRegion P off n with
  | none => exact .inl ⟨rfl, rfl⟩
  | some r =>
    cases hb : s.busy with
    | true => exact .inr (.inl ⟨by simp, rfl, by simp⟩)
    | false =>
      cases r with
      | csr => exact .inr (.inr (.inl ⟨rfl, rfl, by simp⟩))
      | kmem | tmem | pix | qbuf | out => exact .inr (.inr (.inr ⟨_, rfl, by decide, rfl, by simp⟩))

/-- A write of a local memory changes that memory alone. -/
theorem writeRegion_frame (s : State) (i : Nat) (bs : List Byte) (r : Region) :
    s.writeRegion i bs r = { s with
      kmem := if r = .kmem then Mem.writeRange s.kmem i bs else s.kmem,
      tmem := if r = .tmem then Mem.writeRange s.tmem i bs else s.tmem,
      pix := if r = .pix then Mem.writeRange s.pix i bs else s.pix,
      qbuf := if r = .qbuf then Mem.writeRange s.qbuf i (bs.map (fun b => b.setWidth 2)) else s.qbuf,
      out := if r = .out then Mem.writeRange s.out i bs else s.out } := by
  cases r <;> rfl

/-- The register an offset of the CSR region names has that offset. -/
theorem csrAt_some {off : Nat} {c : Csr} (h : csrAt off = some c) : csrOffset c = off := by
  have := List.find?_some h
  simpa using this

/-- A write in the CSR region touches no memory and none of the model's own fields. -/
theorem csrRegionWrite_frame (s : State) (off : Nat) (v : Word) :
    (csrRegionWrite s off v).pix = s.pix ∧ (csrRegionWrite s off v).qbuf = s.qbuf ∧
    (csrRegionWrite s off v).out = s.out ∧ (csrRegionWrite s off v).kmem = s.kmem ∧
    (csrRegionWrite s off v).tmem = s.tmem ∧ (csrRegionWrite s off v).outlen = s.outlen ∧
    (csrRegionWrite s off v).fresh = s.fresh ∧ (csrRegionWrite s off v).agenda = s.agenda ∧
    (csrRegionWrite s off v).reply = s.reply := by
  unfold csrRegionWrite
  split
  · next c _ => cases c <;> exact ⟨rfl, rfl, rfl, rfl, rfl, rfl, rfl, rfl, rfl⟩
  · exact ⟨rfl, rfl, rfl, rfl, rfl, rfl, rfl, rfl, rfl⟩

@[simp] theorem bytesOf_length (n : Nat) (v : Word) : (bytesOf n v).length = n := by simp [bytesOf]

end Sys2Proof.Machine
end

