-- ==== Sys2Proof/Laws/Commands.lean ====
section
/-! SUPPORT. The laws of the checks, the conversions and the meanings: what each shared operation can do, said once. -/

namespace Sys2Proof.Machine

/-! ## The checks -/

@[simp] theorem runChecks_nil (P : Params) (s : State) (n : Nat) : runChecks P s [] n = (none, n) := rfl

/-- Checks run left to right: where the first passes the others follow, where it fails it ends them. -/
theorem runChecks_cons (P : Params) (s : State) (c : Chk) (cs : List Chk) (n : Nat) :
    runChecks P s (c :: cs) n =
      match (runChk P s n c).1 with
      | some e => (some e, (runChk P s n c).2)
      | none => runChecks P s cs (runChk P s n c).2 := by
  rw [runChecks]
  split <;> simp_all

/-- Checks that pass drop out of the front of a sequence. -/
theorem runChecks_append (P : Params) (s : State) (cs ds : List Chk) (n : Nat)
    (h : (runChecks P s cs n).1 = none) :
    runChecks P s (cs ++ ds) n = runChecks P s ds (runChecks P s cs n).2 := by
  induction cs generalizing n with
  | nil => rfl
  | cons c cs ih =>
    rw [runChecks_cons] at h
    rw [List.cons_append, runChecks_cons, runChecks_cons]
    cases hc : (runChk P s n c).1 with
    | some e => simp [hc] at h
    | none =>
      rw [hc] at h
      simpa using ih _ h

/-- A sequence passes exactly when its head does and then its tail. -/
theorem runChecks_append_none (P : Params) (s : State) (cs ds : List Chk) (n : Nat) :
    (runChecks P s (cs ++ ds) n).1 = none ↔
      (runChecks P s cs n).1 = none ∧ (runChecks P s ds (runChecks P s cs n).2).1 = none := by
  induction cs generalizing n with
  | nil => simp
  | cons c cs ih =>
    rw [List.cons_append, runChecks_cons, runChecks_cons]
    cases hc : (runChk P s n c).1 with
    | some e => simp
    | none => simpa using ih _

theorem chkMode_none {s : State} : chkMode s = none ↔ s.MODE ≠ 3 := by simp [chkMode]
theorem chkBpp_none {s : State} : chkBpp s = none ↔ s.BPP = 1 ∨ s.BPP = 2 := by
  have h : s.BPP < 4 := s.bpp.isLt
  simp only [chkBpp, ite_eq_right_iff, reduceCtorEq, imp_false]
  omega
theorem chkW_none {P : Params} {s : State} : chkW P s = none ↔ 1 ≤ s.W ∧ s.W ≤ P.maxW := by
  simp only [chkW, ite_eq_right_iff, reduceCtorEq, imp_false]; omega
theorem chkH_none {P : Params} {s : State} : chkH P s = none ↔ 1 ≤ s.H ∧ s.H ≤ P.maxH := by
  simp only [chkH, ite_eq_right_iff, reduceCtorEq, imp_false]; omega
theorem chkKc_none {P : Params} {s : State} : chkKc P s = none ↔ s.KC % 2 = 1 ∧ s.KC ≤ P.kcMax := by
  simp only [chkKc, ite_eq_right_iff, reduceCtorEq, imp_false]; omega
theorem chkKr_none {P : Params} {s : State} : chkKr P s = none ↔ 1 ≤ s.KR ∧ s.KR ≤ P.krMax := by
  simp only [chkKr, ite_eq_right_iff, reduceCtorEq, imp_false]; omega
theorem chkT_none {P : Params} {s : State} : chkT P s = none ↔ 1 ≤ s.T ∧ s.T ≤ P.tMax := by
  simp only [chkT, ite_eq_right_iff, reduceCtorEq, imp_false]; omega
theorem chkPad_none {s : State} : chkPad s = none ↔ s.PAD ≠ 3 := by simp [chkPad]
theorem chkGroup_none {s : State} : chkGroup s = none ↔ s.N % s.G = 0 ∨ s.PAD ≠ 0 := by
  simp only [chkGroup, ite_eq_right_iff, reduceCtorEq, imp_false]; omega

/-- The common head of the sequences of the pixel commands passes exactly when depth and size are legal, and draws no
free value. -/
theorem runChecks_size (P : Params) (s : State) (n : Nat) (h : s.DepthLegal) (h' : s.SizeLegal P) (cs : List Chk) :
    runChecks P s (.bpp :: .w :: .h :: cs) n = runChecks P s cs n := by
  obtain ⟨h1, h2, h3, h4⟩ := h'
  simp [runChecks, runChk, chkBpp_none.2 h, chkW_none.2 ⟨h1, h2⟩, chkH_none.2 ⟨h3, h4⟩]

/-! ### CHK_KW -/

theorem readWeight_of_holds {P : Params} {s : State} {r c : Nat} {w : F64} (h : s.HoldsWeight P r c w) (n : Nat) :
    readWeight P s r c n = (w, n) := by
  have h1 : Mem.readRange Config.freeByte s.kmem 8 (kmemIndex P r c) n =
      ((List.range 8).map (fun b => w.extractLsb' (8 * b) 8), n) := by
    have := Mem.readRange_written (free := Config.freeByte) (m := s.kmem) (i := kmemIndex P r c) (n := n)
      ((List.range 8).map (fun b => w.extractLsb' (8 * b) 8)) (by
        intro j hj
        simp only [List.length_map, List.length_range] at hj
        simpa [kmemIndex] using h j hj)
    simpa using this
  rw [readWeight, h1]
  refine Prod.ext ?_ rfl
  apply BitVec.eq_of_toNat_eq
  simp only [List.range, List.range.loop, List.map, natOfBytes, BitVec.extractLsb'_toNat, BitVec.toNat_ofNat,
    Nat.shiftRight_eq_div_pow]
  have := w.isLt
  omega

theorem firstBadWeight_none_of_legal {P : Params} {s : State} {w : Nat → Nat → F64} {cells : List (Nat × Nat)}
    (h : ∀ rc ∈ cells, s.HoldsWeight P rc.1 rc.2 (w rc.1 rc.2) ∧ WeightLegal (w rc.1 rc.2)) (n : Nat) :
    firstBadWeight P s cells n = (none, n) := by
  induction cells with
  | nil => rfl
  | cons rc cells ih =>
    obtain ⟨r, c⟩ := rc
    obtain ⟨h1, h2, h3⟩ := h (r, c) (by simp)
    rw [firstBadWeight, readWeight_of_holds h1]
    simp [badWeight, h2, h3, ih (fun rc hrc => h rc (List.mem_cons_of_mem _ hrc))]

theorem firstBadWeight_append {P : Params} {s : State} {cells cells' : List (Nat × Nat)} {n n' : Nat}
    (h : firstBadWeight P s cells n = (none, n')) :
    firstBadWeight P s (cells ++ cells') n = firstBadWeight P s cells' n' := by
  induction cells generalizing n with
  | nil => simp [firstBadWeight] at h; subst h; rfl
  | cons rc cells ih =>
    obtain ⟨r, c⟩ := rc
    rw [firstBadWeight] at h
    rw [List.cons_append, firstBadWeight]
    split at h
    · simp at h
    · rw [if_neg (by assumption)]; exact ih h

theorem firstBadWeight_mem {P : Params} {s : State} {cells : List (Nat × Nat)} {n n' : Nat} {rc : Nat × Nat}
    (h : firstBadWeight P s cells n = (some rc, n')) : rc ∈ cells := by
  induction cells generalizing n with
  | nil => simp [firstBadWeight] at h
  | cons d cells ih =>
    obtain ⟨r, c⟩ := d
    rw [firstBadWeight] at h
    split at h
    · simp at h; simp [← h.1]
    · exact List.mem_cons_of_mem _ (ih h)

theorem mem_appliedCells {KR KC r c : Nat} :
    (r, c) ∈ appliedCells KR KC ↔ r < KR ∧ c < KC ∧ (1 ≤ r ∨ (r = 0 ∧ KC / 2 < c)) := by
  simp only [appliedCells, List.mem_filter, List.mem_flatMap, List.mem_map, List.mem_range, applied, Bool.or_eq_true,
    Bool.and_eq_true, decide_eq_true_eq, Prod.mk.injEq]
  constructor
  · rintro ⟨⟨a, ha, b, hb, rfl, rfl⟩, h⟩; exact ⟨ha, hb, h⟩
  · rintro ⟨h1, h2, h3⟩; exact ⟨⟨r, h1, c, h2, rfl, rfl⟩, h3⟩

/-- The applied cells stand in row-major order. -/
theorem appliedCells_sorted (KR KC : Nat) :
    (appliedCells KR KC).Pairwise (fun a b => a.1 < b.1 ∨ (a.1 = b.1 ∧ a.2 < b.2)) := by
  refine List.Pairwise.filter _ ?_
  rw [List.pairwise_flatMap]
  refine ⟨fun r _ => ?_, ?_⟩
  · rw [List.pairwise_map]
    exact List.pairwise_lt_range.imp (fun h => by simp; exact h)
  · refine List.pairwise_lt_range.imp ?_
    intro a b hab x hx y hy
    simp only [List.mem_map, List.mem_range] at hx hy
    obtain ⟨_, _, rfl⟩ := hx
    obtain ⟨_, _, rfl⟩ := hy
    left; exact hab

theorem chkKw_none_of_legal {P : Params} {s : State} {w : Nat → Nat → F64} (h : s.KernelLegal P w) (n : Nat) :
    chkKw P s n = (none, n) := by
  have := firstBadWeight_none_of_legal (P := P) (s := s) (w := w) (cells := appliedCells s.KR s.KC)
    (fun rc hrc => h.2 rc.1 rc.2 (mem_appliedCells.1 hrc)) n
  simp [chkKw, this]

/-! ### CHK_QRANGE -/

theorem firstOverOne_none_of_le {s : State} {k i n : Nat}
    (h : ∀ j, i ≤ j → j < i + k → ∃ q : QVal, Mem.cell s.qbuf j = some q ∧ q.toNat ≤ 1) :
    firstOverOne s k i n = (none, n) := by
  induction k generalizing i with
  | zero => rfl
  | succ k ih =>
    obtain ⟨q, hq, hle⟩ := h i (Nat.le_refl _) (by omega)
    rw [firstOverOne, readQ, Mem.read_of_cell hq, if_neg (by simpa using hle)]
    exact ih (fun j h1 h2 => h j (by omega) (by omega))

theorem firstOverOne_some {s : State} {k i n m : Nat} {q : QVal} (him : i ≤ m) (hm : m < i + k)
    (h : ∀ j, i ≤ j → j < m → ∃ q : QVal, Mem.cell s.qbuf j = some q ∧ q.toNat ≤ 1)
    (hq : Mem.cell s.qbuf m = some q) (hgt : 1 < q.toNat) :
    firstOverOne s k i n = (some m, n) := by
  induction k generalizing i with
  | zero => omega
  | succ k ih =>
    rw [firstOverOne, readQ]
    by_cases him' : i = m
    · subst him'; rw [Mem.read_of_cell hq, if_pos hgt]
    · obtain ⟨q', hq', hle⟩ := h i (Nat.le_refl _) (by omega)
      rw [Mem.read_of_cell hq', if_neg (by simpa using hle)]
      exact ih (by omega) (by omega) (fun j h1 h2 => h j (by omega) h2)

theorem chkQrange_none_of_legal {s : State} (h : s.QbufLegal) (n : Nat) : chkQrange s n = (none, n) := by
  unfold chkQrange
  split
  · next hb =>
    rw [firstOverOne_none_of_le (fun j _ hj => ?_)]
    obtain ⟨q, hq, hle⟩ := h j (by simpa using hj)
    exact ⟨q, hq, hle hb⟩
  · rfl

/-! ## What each conversion gives -/

@[simp] theorem quantizeValues_length (s : State) : (quantizeValues s).1.length = s.N := by simp [quantizeValues]

@[simp] theorem orderedFrom_length (P : Params) (s : State) (k i n : Nat) : (orderedFrom P s k i n).1.length = k := by
  induction k generalizing i n with
  | zero => rfl
  | succ k ih => simp [orderedFrom, ih]

@[simp] theorem scan_length {α : Type} (num : NumOps α) (W H mid : Nat) (taps : List (Tap α)) (tie : Bool)
    (k i : Nat) (acc : List α) : (scan num W H mid taps tie k i acc).length = k := by
  induction k generalizing i acc with
  | zero => rfl
  | succ k ih => simp [scan, ih]

@[simp] theorem diffusePixels_length {α : Type} (num : NumOps α) (W H mid : Nat) (taps : List (Tap α)) (tie : Bool)
    (px : List Byte) : (diffusePixels num W H mid taps tie px).length = W * H := by simp [diffusePixels]

@[simp] theorem diffuseValues_length (P : Params) (s : State) : (diffuseValues P s).1.length = s.N := by
  simp [diffuseValues, State.N]

@[simp] theorem packedRecord_length (s : State) : (packedRecord s).length = s.packedBytes := by simp [packedRecord]

/-- What ORDERED gives the j-th of `k` pixels from index `i`. -/
theorem orderedFrom_value (P : Params) (s : State) (k i n j : Nat) (hj : j < k) :
    ∃ p t : Byte, (∀ b, Mem.cell s.pix (i + j) = some b → p = b) ∧
      (∀ b, Mem.cell s.tmem ((i + j) / s.W % s.T * P.tMax + (i + j) % s.W % s.T) = some b → t = b) ∧
      (orderedFrom P s k i n).1[j]? = some (s.bilevel (exceeds p t)) := by
  induction k generalizing i n j with
  | zero => omega
  | succ k ih =>
    cases j with
    | zero =>
      exact ⟨_, _, fun b hb => Mem.read_value hb, fun b hb => Mem.read_value hb, rfl⟩
    | succ j =>
      obtain ⟨p, t, h1, h2, h3⟩ := ih (i + 1)
        (readPixel s i (readThreshold P s (i / s.W % s.T) (i % s.W % s.T) n).2).2 j (by omega)
      rw [Nat.add_right_comm, Nat.add_assoc] at h1 h2
      refine ⟨p, t, h1, h2, ?_⟩
      simpa [orderedFrom] using h3

theorem readTaps_of_holds {P : Params} {s : State} {w : Nat → Nat → F64} {cells : List (Nat × Nat)}
    (h : ∀ rc ∈ cells, s.HoldsWeight P rc.1 rc.2 (w rc.1 rc.2)) (n : Nat) :
    readTaps P s cells n = (cells.map (fun rc => ⟨rc.1, rc.2, w rc.1 rc.2⟩), n) := by
  induction cells with
  | nil => rfl
  | cons rc cells ih =>
    obtain ⟨r, c⟩ := rc
    simp [readTaps, readWeight_of_holds (h (r, c) (by simp)), ih (fun rc hrc => h rc (List.mem_cons_of_mem _ hrc))]

/-! ## The meanings as one -/

/-- What a command does once its checks have passed. -/
def commandWork (P : Params) : Instr → State → State
  | .nop, s => s.completeOk false
  | .diffuse, s => (s.diffuseBody P).completeOk false
  | .ordered, s => (s.orderedBody P).completeOk false
  | .quantize, s => s.quantizeBody.completeOk false
  | .pack, s => s.packCore.completeOk s.packWarns
  | .process, s => (s.convert P).packCore.completeOk s.packWarns
  | .softreset, s => s.clearConfig.completeOk false

/-- Every command, in every build, is `validate`, then its work. -/
theorem commandOn_eq (P : Params) (i : Instr) (s : State) :
    commandOn P i s = .next (s.guarded P i (commandWork P i)) := by
  cases i <;> rfl

/-- What a command can answer, in every build: an error of its checks, or its work. -/
theorem commandOn_cases {P : Params} {i : Instr} {s t : State} (h : commandOn P i s = .next t) :
    (∃ e n, validate P i s = (some e, n) ∧ t = (s.withFresh n).complete e.code.code e.info e.arg false) ∨
    (∃ n, validate P i s = (none, n) ∧ t = commandWork P i (s.withFresh n)) := by
  rw [commandOn_eq] at h
  injection h with h
  rw [State.guarded] at h
  rcases hv : validate P i s with ⟨_ | e, n⟩ <;> rw [hv] at h
  · exact .inr ⟨n, rfl, h.symm⟩
  · exact .inl ⟨e, n, rfl, h.symm⟩

/-- Every command of the default build is `validate`, then its work. -/
theorem exec_eq (i : Instr) (s : State) :
    exec i s = .next (s.guarded Config.params i (commandWork Config.params i)) := by
  cases i <;> rfl

/-- Where the checks pass, the command does its work. -/
theorem exec_of_valid {i : Instr} {s : State} {n : Nat} (h : validate Config.params i s = (none, n)) :
    exec i s = .next (commandWork Config.params i (s.withFresh n)) := by
  rw [exec_eq, State.guarded, h]

/-- Where a check fails, the command ends with its error. -/
theorem exec_of_error {i : Instr} {s : State} {e : CmdError} {n : Nat}
    (h : validate Config.params i s = (some e, n)) :
    exec i s = .next ((s.withFresh n).complete e.code.code e.info e.arg false) := by
  rw [exec_eq, State.guarded, h]; rfl

/-- What the meaning of a command can answer: an error of its checks, or its work. -/
theorem exec_cases {i : Instr} {s t : State} (h : exec i s = .next t) :
    (∃ e n, validate Config.params i s = (some e, n) ∧
      t = (s.withFresh n).complete e.code.code e.info e.arg false) ∨
    (∃ n, validate Config.params i s = (none, n) ∧ t = commandWork Config.params i (s.withFresh n)) :=
  commandOn_cases ((commandOn_eq Config.params i s).trans ((exec_eq i s).symm.trans h))

@[simp] theorem withFresh_self (s : State) : s.withFresh s.fresh = s := rfl

/-- A code of R190 other than 0 (success): 1 to 9. -/
theorem ErrCode.code_ne_zero (c : ErrCode) : c.code ≠ 0#8 := by cases c <;> decide
theorem ErrCode.code_le (c : ErrCode) : c.code.toNat ≤ 9 := by cases c <;> decide

/-! ## The checks of a legal configuration -/

/-- The checks of a command that processes pixels, where depth and size are legal: those after them. -/
theorem validate_of_size {P : Params} {i : Instr} {s : State} {cs : List Chk} (h : s.DepthLegal) (h' : s.SizeLegal P)
    (hi : checkSequence s i = .bpp :: .w :: .h :: cs) :
    validate P i s = runChecks P s cs s.fresh := by
  rw [validate, hi, runChecks_size _ _ _ h h']

theorem validate_diffuse_of_legal {P : Params} {s : State} {w : Nat → Nat → F64} (h : s.DepthLegal)
    (h' : s.SizeLegal P) (hk : s.KernelLegal P w) :
    validate P .diffuse s = (none, s.fresh) := by
  rw [validate_of_size h h' rfl]
  simp [runChecks, runChk, chkKc_none.2 ⟨hk.1.1, hk.1.2.1⟩, chkKr_none.2 hk.1.2.2, chkKw_none_of_legal hk]

theorem chkGroup_none_of_legal {s : State} (h : s.PackLegal) : chkGroup s = none := chkGroup_none.2 h.2

theorem validate_pack_of_legal {P : Params} {s : State} (h : s.DepthLegal) (h' : s.SizeLegal P) (hp : s.PackLegal)
    (hq : s.QbufLegal) : validate P .pack s = (none, s.fresh) := by
  rw [validate_of_size h h' rfl]
  simp [runChecks, runChk, chkPad_none.2 hp.1, chkGroup_none_of_legal hp, chkQrange_none_of_legal hq]

/-- The checks of PROCESS where mode, depth, size and the conversion's own are legal: those of the packing. -/
theorem validate_process_of_legal {P : Params} {s : State} {w : Nat → Nat → F64} (h : s.DepthLegal) (h' : s.SizeLegal P)
    (hm : s.MODE = 0 ∨ (s.MODE = 1 ∧ s.KernelLegal P w) ∨ (s.MODE = 2 ∧ s.ThresholdLegal P)) :
    validate P .process s = runChecks P s [.pad, .group] s.fresh := by
  obtain ⟨h1, h2, h3, h4⟩ := h'
  have h5 : s.MODE ≠ 3 := by omega
  unfold validate checkSequence conversionChecks
  rcases hm with hm | ⟨hm, hk⟩ | ⟨hm, ht⟩
  · simp [runChecks, runChk, chkMode_none.2 h5, chkBpp_none.2 h, chkW_none.2 ⟨h1, h2⟩, chkH_none.2 ⟨h3, h4⟩, hm]
  · simp [runChecks, runChk, chkMode_none.2 h5, chkBpp_none.2 h, chkW_none.2 ⟨h1, h2⟩, chkH_none.2 ⟨h3, h4⟩, hm,
      chkKc_none.2 ⟨hk.1.1, hk.1.2.1⟩, chkKr_none.2 hk.1.2.2, chkKw_none_of_legal hk]
  · simp [runChecks, runChk, chkMode_none.2 h5, chkBpp_none.2 h, chkW_none.2 ⟨h1, h2⟩, chkH_none.2 ⟨h3, h4⟩, hm,
      chkT_none.2 ht]

/-- What DIFFUSE computes with a legal kernel: the binary64 scan of the pixels it reads, none of its weights drawn
free. -/
theorem diffuseValues_of_legal {P : Params} {s : State} {w : Nat → Nat → F64} (hk : s.KernelLegal P w) :
    diffuseValues P s =
      ((diffusePixels binary64 s.W s.H (s.KC / 2) (s.kernelTaps w) s.edtie
          (Mem.readRange Config.freeByte s.pix s.N 0 s.fresh).1).map (fun vb => s.bilevel vb.2),
        (Mem.readRange Config.freeByte s.pix s.N 0 s.fresh).2) := by
  have := readTaps_of_holds (P := P) (s := s) (w := w) (cells := appliedCells s.KR s.KC)
    (fun rc hrc => (hk.2 rc.1 rc.2 (mem_appliedCells.1 hrc)).1) s.fresh
  simp [diffuseValues, this, State.mid, State.TIE, State.kernelTaps]

/-! ## The two completions, as the claims name them -/

/-- A completion with an error code records the error and nothing else (spec/60_exceptions.md R193). -/
theorem complete_of_error {code : Byte} (h : code ≠ 0#8) (info : Byte) (arg : Word) (s : State) :
    s.complete code info arg false = s.recordedError code info arg := by
  simp [State.complete, State.recordedError, h]

theorem withFresh_recordedError (s : State) (n : Nat) (code info : Byte) (arg : Word) :
    (s.withFresh n).recordedError code info arg = (s.recordedError code info arg).withFresh n := rfl

/-- A completion without one (spec/44_control_commands.md R172). -/
theorem completeOk_eq_completed (s : State) (warn : Bool) :
    s.completeOk warn = { s.completed with warn := s.warn || warn } := by
  simp [State.completeOk, State.complete, State.completed]

/-- Where a check fails, the command records its error. -/
theorem exec_of_error_recorded {i : Instr} {s : State} {e : CmdError} {n : Nat}
    (h : validate Config.params i s = (some e, n)) :
    exec i s = .next ((s.recordedError e.code.code e.info e.arg).withFresh n) := by
  rw [exec_of_error h, complete_of_error e.code.code_ne_zero, withFresh_recordedError]

/-! ## What no command reads

A command reads neither BUSYWR nor the model's agenda and response: its checks and its work are the same whatever they
are, and it leaves them as they were (but for SOFTRESET, which clears BUSYWR). -/

/-- The state with another BUSYWR, agenda and response. -/
def State.withBus (b : Bool) (l : List Event) (r : Option Reply) (s : State) : State :=
  { s with busywr := b, agenda := l, reply := r }

theorem firstBadWeight_withBus (P : Params) (s : State) (b : Bool) (l : List Event) (r : Option Reply)
    (cells : List (Nat × Nat)) (n : Nat) : firstBadWeight P (s.withBus b l r) cells n = firstBadWeight P s cells n := by
  induction cells generalizing n with
  | nil => rfl
  | cons rc cells ih => rw [firstBadWeight, firstBadWeight, ih]; rfl

theorem firstOverOne_withBus (s : State) (b : Bool) (l : List Event) (r : Option Reply) (k i n : Nat) :
    firstOverOne (s.withBus b l r) k i n = firstOverOne s k i n := by
  induction k generalizing i n with
  | zero => rfl
  | succ k ih => rw [firstOverOne, firstOverOne, ih]; rfl

theorem runChk_withBus (P : Params) (s : State) (b : Bool) (l : List Event) (r : Option Reply) (n : Nat) (c : Chk) :
    runChk P (s.withBus b l r) n c = runChk P s n c := by
  cases c <;> try rfl
  · simp only [runChk, chkKw, firstBadWeight_withBus]; rfl
  · simp only [runChk, chkQrange, firstOverOne_withBus]; rfl

theorem validate_withBus (P : Params) (i : Instr) (s : State) (b : Bool) (l : List Event) (r : Option Reply) :
    validate P i (s.withBus b l r) = validate P i s := by
  have h : ∀ cs n, runChecks P (s.withBus b l r) cs n = runChecks P s cs n := by
    intro cs
    induction cs with
    | nil => intro n; rfl
    | cons c cs ih => intro n; rw [runChecks_cons, runChecks_cons, runChk_withBus]; simp only [ih]
  unfold validate
  rw [h]
  cases i <;> rfl

theorem readTaps_withBus (P : Params) (s : State) (b : Bool) (l : List Event) (r : Option Reply)
    (cells : List (Nat × Nat)) (n : Nat) : readTaps P (s.withBus b l r) cells n = readTaps P s cells n := by
  induction cells generalizing n with
  | nil => rfl
  | cons rc cells ih => rw [readTaps, readTaps, ih]; rfl

theorem orderedFrom_withBus (P : Params) (s : State) (b : Bool) (l : List Event) (r : Option Reply) (k i n : Nat) :
    orderedFrom P (s.withBus b l r) k i n = orderedFrom P s k i n := by
  induction k generalizing i n with
  | zero => rfl
  | succ k ih => simp only [orderedFrom, ih]; rfl

theorem diffuseBody_withBus (P : Params) (s : State) (b : Bool) (l : List Event) (r : Option Reply) :
    (s.withBus b l r).diffuseBody P = (s.diffuseBody P).withBus b l r := by
  have h : diffuseValues P (s.withBus b l r) = diffuseValues P s := by
    simp only [diffuseValues, readTaps_withBus]; rfl
  unfold State.diffuseBody
  rw [h]; rfl

theorem orderedBody_withBus (P : Params) (s : State) (b : Bool) (l : List Event) (r : Option Reply) :
    (s.withBus b l r).orderedBody P = (s.orderedBody P).withBus b l r := by
  unfold State.orderedBody
  rw [orderedFrom_withBus]; rfl

/-- A command does the same whatever BUSYWR, the agenda and the response are. -/
theorem exec_withBus {i : Instr} {s t : State} (b : Bool) (l : List Event) (r : Option Reply)
    (h : exec i s = .next t) :
    exec i (s.withBus b l r) = .next (t.withBus (if i = .softreset then false else b) l r) := by
  rcases exec_cases h with ⟨e, n, hv, rfl⟩ | ⟨n, hv, rfl⟩
  · rw [exec_of_error (n := n) (e := e) (by rw [validate_withBus, hv])]
    cases i with
    | softreset => simp [validate, checkSequence] at hv
    | _ => rfl
  · rw [exec_of_valid (n := n) (by rw [validate_withBus, hv])]
    have hf : (s.withBus b l r).withFresh n = (s.withFresh n).withBus b l r := rfl
    rw [hf]
    cases i with
    | diffuse => simp only [commandWork, diffuseBody_withBus]; rfl
    | ordered => simp only [commandWork, orderedBody_withBus]; rfl
    | process =>
      have hc : ∀ s : State, (s.withBus b l r).convert Config.params = (s.convert Config.params).withBus b l r := by
        intro s
        unfold State.convert
        rw [show (s.withBus b l r).MODE = s.MODE from rfl]
        split
        · rfl
        · rw [diffuseBody_withBus]
        · rw [orderedBody_withBus]
        · rfl
      simp only [commandWork, hc]; rfl
    | _ => rfl

/-! ## What a conversion and a command leave as it was -/

/-- A conversion changes QBUF and the count of free values alone. -/
theorem convert_frame (P : Params) (s : State) :
    s.convert P = { s with qbuf := (s.convert P).qbuf, fresh := (s.convert P).fresh } := by
  unfold State.convert
  split <;> rfl

/-- A command that processes pixels passes its checks only with a legal depth and size. -/
theorem legal_of_validate {P : Params} {i : Instr} {s : State} {n : Nat} (h : validate P i s = (none, n))
    (hi : i = .diffuse ∨ i = .ordered ∨ i = .quantize ∨ i = .pack ∨ i = .process) :
    s.DepthLegal ∧ s.SizeLegal P := by
  have key : ∀ cs m, (runChecks P s (.bpp :: .w :: .h :: cs) m).1 = none →
      s.DepthLegal ∧ s.SizeLegal P := by
    intro cs m h
    cases h1 : chkBpp s with
    | some e => simp [runChecks, runChk, h1] at h
    | none =>
      cases h2 : chkW P s with
      | some e => simp [runChecks, runChk, h1, h2] at h
      | none =>
        cases h3 : chkH P s with
        | some e => simp [runChecks, runChk, h1, h2, h3] at h
        | none =>
          exact ⟨chkBpp_none.1 h1, (chkW_none.1 h2).1, (chkW_none.1 h2).2, (chkH_none.1 h3).1, (chkH_none.1 h3).2⟩
  have h : (validate P i s).1 = none := by rw [h]
  unfold validate at h
  rcases hi with rfl | rfl | rfl | rfl | rfl
  · exact key _ _ h
  · exact key _ _ h
  · exact key _ _ h
  · exact key _ _ h
  · simp only [checkSequence, List.cons_append] at h
    rw [runChecks_cons] at h
    simp only [runChk] at h
    cases hm : chkMode s with
    | some e => rw [hm] at h; simp at h
    | none => rw [hm] at h; exact key _ _ h

/-- What every command leaves as it was, and what every command does: once, for all seven and
every build. -/
theorem commandOn_frame {P : Params} {i : Instr} {s t : State} (he : commandOn P i s = .next t) :
    t.pix = s.pix ∧ t.kmem = s.kmem ∧ t.tmem = s.tmem ∧ t.agenda = s.agenda ∧ t.reply = s.reply ∧
    t.busy = false ∧ t.done = true ∧ (i ≠ .softreset → (s.err = true → t.err = true) ∧ (s.warn = true → t.warn = true) ∧ t.busywr = s.busywr) ∧
    (t.outlen ≠ s.outlen → t.errcode = 0#8 ∧ (i = .pack ∨ i = .process ∨ i = .softreset)) := by
  rcases commandOn_cases he with ⟨e, n, hv, rfl⟩ | ⟨n, hv, rfl⟩
  · simp [State.complete]; intro _ h; simp [h]
  · have hc := convert_frame P (s.withFresh n)
    generalize hs : (s.withFresh n).convert P = s' at hc
    have e1 : s'.pix = s.pix := by rw [hc]; rfl
    have e2 : s'.kmem = s.kmem := by rw [hc]; rfl
    have e3 : s'.tmem = s.tmem := by rw [hc]; rfl
    have e4 : s'.agenda = s.agenda := by rw [hc]; rfl
    have e5 : s'.reply = s.reply := by rw [hc]; rfl
    have e6 : s'.err = s.err := by rw [hc]; rfl
    have e7 : s'.warn = s.warn := by rw [hc]; rfl
    have e8 : s'.busywr = s.busywr := by rw [hc]; rfl
    clear hc
    cases i <;>
      simp [commandWork, State.complete, State.quantizeBody, State.diffuseBody, State.orderedBody, State.packCore,
        State.clearConfig, hs, e1, e2, e3, e4, e5, e6, e7, e8] <;>
      exact Or.inl

/-- `commandOn_frame` for the default build. -/
theorem exec_frame {i : Instr} {s t : State} (he : exec i s = .next t) :
    t.pix = s.pix ∧ t.kmem = s.kmem ∧ t.tmem = s.tmem ∧ t.agenda = s.agenda ∧ t.reply = s.reply ∧
    t.busy = false ∧ t.done = true ∧
    (i ≠ .softreset → (s.err = true → t.err = true) ∧ (s.warn = true → t.warn = true) ∧ t.busywr = s.busywr) ∧
    (t.outlen ≠ s.outlen → t.errcode = 0#8 ∧ (i = .pack ∨ i = .process ∨ i = .softreset)) :=
  commandOn_frame ((commandOn_eq Config.params i s).trans ((exec_eq i s).symm.trans he))

end Sys2Proof.Machine
end

