-- ==== Sys2Proof/Laws/Pack.lean ====
section
/-! SUPPORT. The packed byte and the packed record (spec/43_bit_packer.md R150 to R156). -/

namespace Sys2Proof.Machine

/-- The byte of eight 1-bit values holds each of them in its place. -/
theorem packByte_bits : ∀ b0 b1 b2 b3 b4 b5 b6 b7 : Bool,
    (List.range 8).all (fun j =>
      decide (((List.range 8).foldl (fun (byte : Byte) j =>
          byte ||| ((packField 1 ((BitVec.ofBool ([b0, b1, b2, b3, b4, b5, b6, b7].getD j false)).setWidth 2)).setWidth 8
            <<< (8 - 1 * (j + 1)))) 0#8).toNat / 2 ^ (8 - 1 * (j + 1)) % 2 ^ 1 =
        ([b0, b1, b2, b3, b4, b5, b6, b7].getD j false).toNat)) = true := by decide +kernel

/-- The byte of four 2-bit values holds each of them, inverted, in its place. -/
theorem packByte_pairs : ∀ v0 v1 v2 v3 : QVal,
    (List.range 4).all (fun j =>
      decide (((List.range 4).foldl (fun (byte : Byte) j =>
          byte ||| ((packField 2 ([v0, v1, v2, v3].getD j 0#2)).setWidth 8 <<< (8 - 2 * (j + 1)))) 0#8).toNat /
            2 ^ (8 - 2 * (j + 1)) % 2 ^ 2 =
        3 - ([v0, v1, v2, v3].getD j 0#2).toNat)) = true := by decide +kernel

/-- A value at most 1 is its low bit. -/
theorem qval_of_le_one (v : QVal) (h : v.toNat ≤ 1) : v = (BitVec.ofBool (decide (v.toNat = 1))).setWidth 2 := by
  revert v; decide

/-- The field of each value of a group in the packed byte: the value itself at BPP 1 (values at most 1), its inverse
at BPP 2. -/
theorem packByte_field {bpp : Nat} (hb : bpp = 1 ∨ bpp = 2) (pad : QVal) (values : List QVal) (k j : Nat)
    (hj : j < 8 / bpp) (hle : bpp = 1 → ∀ j < 8, (values.getD (k * 8 + j) pad).toNat ≤ 1) :
    (packByte bpp pad values k).toNat / 2 ^ (8 - bpp * (j + 1)) % 2 ^ bpp =
      if bpp = 2 then 3 - (values.getD (k * (8 / bpp) + j) pad).toNat
      else (values.getD (k * (8 / bpp) + j) pad).toNat := by
  rcases hb with rfl | rfl
  · have hv : ∀ j < 8, values.getD (k * 8 + j) pad =
        (BitVec.ofBool (decide ((values.getD (k * 8 + j) pad).toNat = 1))).setWidth 2 :=
      fun j hj => qval_of_le_one _ (hle rfl j hj)
    simp only [Nat.div_one] at hj ⊢
    generalize hf : (fun j => decide ((values.getD (k * 8 + j) pad).toNat = 1)) = f at *
    have hv' : ∀ j < 8, values.getD (k * 8 + j) pad = (BitVec.ofBool (f j)).setWidth 2 := by
      intro j hj; rw [hv j hj, ← hf]
    have := packByte_bits (f 0) (f 1) (f 2) (f 3) (f 4) (f 5) (f 6) (f 7)
    rw [List.all_eq_true] at this
    have h2 := of_decide_eq_true (this j (List.mem_range.2 hj))
    have hget : ∀ j < 8, [f 0, f 1, f 2, f 3, f 4, f 5, f 6, f 7].getD j false = f j := by
      intro j hj
      interval_cases j <;> rfl
    have hval : (values.getD (k * 8 + j) pad).toNat = (f j).toNat := by
      rw [hv' j hj]; cases f j <;> rfl
    rw [if_neg (by decide), hval]
    rw [hget j hj] at h2
    rw [← h2, packByte]
    congr 3
    simp only [Nat.div_one]
    simp only [List.range, List.range.loop, List.foldl]
    rw [hv' 0 (by decide), hv' 1 (by decide), hv' 2 (by decide), hv' 3 (by decide), hv' 4 (by decide), hv' 5 (by decide),
      hv' 6 (by decide), hv' 7 (by decide)]
    rfl
  · simp only [show 8 / 2 = 4 from rfl] at hj ⊢
    have := packByte_pairs (values.getD (k * 4 + 0) pad) (values.getD (k * 4 + 1) pad) (values.getD (k * 4 + 2) pad)
      (values.getD (k * 4 + 3) pad)
    rw [List.all_eq_true] at this
    have h2 := of_decide_eq_true (this j (List.mem_range.2 hj))
    simp only [if_true]
    have hget : [values.getD (k * 4 + 0) pad, values.getD (k * 4 + 1) pad, values.getD (k * 4 + 2) pad,
        values.getD (k * 4 + 3) pad].getD j 0#2 = values.getD (k * 4 + j) pad := by interval_cases j <;> rfl
    rw [hget] at h2
    rw [← h2]
    rfl

/-! ## What the packing writes -/

/-- The packed record fits: OUTLEN is `ceil(N / G)` at most (R156). -/
theorem packedBytes_le (P : Params) (s : State) (hP : P.wf = true) (h : s.DepthLegal) (h' : s.SizeLegal P) :
    s.packedBytes ≤ P.outCap := by
  have hN : s.N ≤ P.maxW * P.maxH := Nat.mul_le_mul h'.2.1 h'.2.2.2
  have hb := Params.wf_bounds hP
  have hle : s.packedBytes ≤ (s.N + 3) / 4 := by
    unfold State.packedBytes State.G
    rcases h with h | h <;> rw [h] <;> split <;> omega
  omega

/-- The values the packer takes from a written QBUF, and none drawn free: pixel i is value i, where it is packed. -/
theorem packedValues_written {s : State} (h : ∀ i < s.N, ∃ q : QVal, Mem.cell s.qbuf i = some q) :
    (packedValues s).2 = s.fresh ∧
      ∀ i < min s.N (s.packedBytes * s.G), (packedValues s).1[i]? = Mem.cell s.qbuf i := by
  choose f hf using h
  have := Mem.readRange_written (free := Config.freeQ) (m := s.qbuf) (i := 0) (n := s.fresh)
    (List.ofFn (fun i : Fin (min s.N (s.packedBytes * s.G)) => f i.1 (by omega))) (by
      intro j hj
      simp only [List.length_ofFn] at hj
      simpa using hf j (by omega))
  simp only [List.length_ofFn] at this
  refine ⟨by rw [packedValues, this], fun i hi => ?_⟩
  rw [packedValues, this, hf i (by omega)]
  simp only [List.getElem?_ofFn, dif_pos hi]

end Sys2Proof.Machine
end

