-- ==== Sys2Proof/Laws/PerInstr.lean ====
section
/-! SUPPORT. Statements about every command as syntax, one lemma per command: its word is a well-formed command word,
the word of no other command, and the decoder reads it back. -/

namespace Sys2Proof.Laws

/-- What holds of the encoding of each command (spec/30_encoding.md R90 to R93). -/
def Encoding.Statement (i : Instr) : Prop :=
  i.wf = true ∧ wordWf (encode i) = true ∧ decodeWord (encode i) = .ok i ∧
  decodeTableWord 32 (encode i).toNat = some i ∧ ∀ j, encode j = encode i → j = i

theorem Encoding.nop : Encoding.Statement .nop :=
  ⟨rfl, by decide, rfl, rfl, fun j h => by revert h; cases j <;> decide⟩
theorem Encoding.diffuse : Encoding.Statement .diffuse :=
  ⟨rfl, by decide, rfl, rfl, fun j h => by revert h; cases j <;> decide⟩
theorem Encoding.ordered : Encoding.Statement .ordered :=
  ⟨rfl, by decide, rfl, rfl, fun j h => by revert h; cases j <;> decide⟩
theorem Encoding.quantize : Encoding.Statement .quantize :=
  ⟨rfl, by decide, rfl, rfl, fun j h => by revert h; cases j <;> decide⟩
theorem Encoding.pack : Encoding.Statement .pack :=
  ⟨rfl, by decide, rfl, rfl, fun j h => by revert h; cases j <;> decide⟩
theorem Encoding.process : Encoding.Statement .process :=
  ⟨rfl, by decide, rfl, rfl, fun j h => by revert h; cases j <;> decide⟩
theorem Encoding.softreset : Encoding.Statement .softreset :=
  ⟨rfl, by decide, rfl, rfl, fun j h => by revert h; cases j <;> decide⟩

end Sys2Proof.Laws
end

