-- ==== Sys2Proof/Laws/Scan.lean ====
section
/-! SUPPORT. What the error-diffusion scan does to one sample (spec/40_error_diffusion.md R115, R116). -/

namespace Sys2Proof.Machine

variable {α : Type}

@[simp] theorem spread_length (num : NumOps α) (W H mid y x : Nat) (e : α) (ts : List (Tap α)) (acc : List α) :
    (spread num W H mid y x e ts acc).length = acc.length := by
  induction ts generalizing acc with
  | nil => rfl
  | cons t ts ih => rw [spread]; split <;> simp [ih]

/-- What spreading one error does to one sample: the contributions of the taps that reach it, added in order. -/
theorem spread_getD (num : NumOps α) (W H mid y x : Nat) (e d : α) (ts : List (Tap α)) (acc : List α) (j : Nat)
    (hj : j < acc.length) :
    (spread num W H mid y x e ts acc).getD j d =
      ts.foldl (fun a t => if tapTarget W H mid y x t.row t.col = some j then num.add a (num.mul e t.weight) else a)
        (acc.getD j d) := by
  induction ts generalizing acc with
  | nil => rfl
  | cons t ts ih =>
    rw [spread, List.foldl_cons]
    cases ht : tapTarget W H mid y x t.row t.col with
    | none => simpa using ih acc hj
    | some i =>
      simp only
      rw [ih _ (by simpa using hj)]
      congr 1
      simp only [List.getD_eq_getElem?_getD, List.getElem?_modify]
      by_cases hij : i = j
      · subst hij; simp [List.getElem?_eq_getElem hj]
      · simp [hij]

/-- Unfolding the scan by one pixel. -/
theorem scan_succ (num : NumOps α) (W H mid : Nat) (taps : List (Tap α)) (tie : Bool) (k i : Nat) (acc : List α)
    (v : α) (hv : v = acc.getD i (num.num 0)) :
    scan num W H mid taps tie (k + 1) i acc =
      (v, round01 num v tie) ::
        scan num W H mid taps tie k (i + 1)
          (spread num W H mid (i / W) (i % W) (residual num v (round01 num v tie)) taps acc) := by
  subst hv; rfl

/-- A target is some exactly when it is inside the image, with the index of R11. -/
theorem tapTarget_eq_some {W H mid y x r c j : Nat} :
    tapTarget W H mid y x r c = some j ↔
      y + r < H ∧ mid ≤ x + c ∧ x + c - mid < W ∧ (y + r) * W + (x + c - mid) = j := by
  unfold tapTarget
  split
  · next h => simp [h]
  · next h => simp; intro h1 h2 h3; exact absurd ⟨h1, h2, h3⟩ h

end Sys2Proof.Machine
end

