-- ==== Sys2Proof/Laws/Step.lean ====
section
/-! SUPPORT. What one step can do: the cases of `step`, of the engine's turn and of a hardware reset. -/

namespace Sys2Proof.Machine

/-! ## The default build -/

theorem commandOn_params (i : Instr) (s : State) : commandOn Config.params i s = exec i s := by cases i <;> rfl

theorem stepOn_params (s : State) : stepOn Config.params s = step s := by
  rw [stepOn, step, show commandOn Config.params = exec from funext fun i => funext fun s => commandOn_params i s]

/-! ## The cases of a step -/

section
variable {P : Params} {run : Instr → State → Host.Outcome State Fault Refusal} {s t : State}

theorem turn_nil (h : s.agenda = []) : turn P run s = engineTurn run s := by simp [turn, h]

theorem turn_cons {e : Event} {rest : List Event} (h : s.agenda = e :: rest) :
    turn P run s = eventTurn P run e (s.withAgenda rest) := by simp [turn, h]

/-- What a step of any build can be: the engine's turn (the agenda is empty, or the turn is its head), a host read, a
host write, or a hardware reset. -/
theorem turn_cases (h : turn P run s = .next t) :
    ((s.agenda = [] ∨ ∃ rest, s.agenda = .engine :: rest) ∧
      engineTurn run (s.withAgenda s.agenda.tail) = .next t) ∨
    (∃ off n rest, s.agenda = .read off n :: rest ∧ t = (s.withAgenda rest).busRead P off.toNat n.bytes) ∨
    (∃ off n v rest, s.agenda = .write off n v :: rest ∧ t = (s.withAgenda rest).busWrite P off.toNat n.bytes v) ∨
    (∃ rest, s.agenda = .rst :: rest ∧ t = (s.withAgenda rest).hardReset P) := by
  cases ha : s.agenda with
  | nil =>
    rw [turn_nil ha] at h
    refine .inl ⟨.inl rfl, ?_⟩
    rw [List.tail_nil, ← ha]
    exact h
  | cons e rest =>
    rw [turn_cons ha] at h
    cases e with
    | read off n => injection h with h; exact .inr (.inl ⟨off, n, rest, rfl, h.symm⟩)
    | write off n v => injection h with h; exact .inr (.inr (.inl ⟨off, n, v, rest, rfl, h.symm⟩))
    | rst => injection h with h; exact .inr (.inr (.inr ⟨rest, rfl, h.symm⟩))
    | engine => exact .inl ⟨.inr ⟨rest, rfl⟩, h⟩

/-- What the engine's turn can answer. -/
theorem engineTurn_cases (h : engineTurn run s = .next t) :
    (s.busy = false ∧ t = s) ∨
    (∃ w i, s.busy = true ∧ s.pending = some w ∧ decodeWord w = .ok i ∧ run i s = .next t) ∨
    (∃ w e, s.busy = true ∧ s.pending = some w ∧ decodeWord w = .error e ∧ t = s.illegalCommand w) := by
  unfold engineTurn at h
  split at h
  · next hb => injection h with h; exact .inl ⟨hb, h.symm⟩
  · cases h
  · next w hb hp =>
    split at h
    · next i hd => exact .inr (.inl ⟨w, i, hb, hp, hd, h⟩)
    · next e hd => injection h with h; exact .inr (.inr ⟨w, e, hb, hp, hd, h.symm⟩)

theorem step_nil (h : s.agenda = []) : step s = engineStep s := turn_nil h

theorem step_cons {e : Event} {rest : List Event} (h : s.agenda = e :: rest) :
    step s = eventStep e (s.withAgenda rest) := turn_cons h

/-! A host access and a reset that are the next event (spec/70_reset_and_hazards.md R231). -/

theorem step_of_read {off : Offset} {n : Width} {rest : List Event} (h : s.agenda = .read off n :: rest) :
    step s = .next ((s.withAgenda rest).busRead Config.params off.toNat n.bytes) := step_cons h

theorem step_of_write {off : Offset} {n : Width} {v : Word} {rest : List Event}
    (h : s.agenda = .write off n v :: rest) :
    step s = .next ((s.withAgenda rest).busWrite Config.params off.toNat n.bytes v) := step_cons h

theorem step_of_rst {rest : List Event} (h : s.agenda = .rst :: rest) :
    step s = .next ((s.withAgenda rest).hardReset Config.params) := step_cons h

/-- `turn_cases` for the default build. -/
theorem step_cases (h : step s = .next t) :
    ((s.agenda = [] ∨ ∃ rest, s.agenda = .engine :: rest) ∧ engineStep (s.withAgenda s.agenda.tail) = .next t) ∨
    (∃ off n rest, s.agenda = .read off n :: rest ∧
      t = (s.withAgenda rest).busRead Config.params off.toNat n.bytes) ∨
    (∃ off n v rest, s.agenda = .write off n v :: rest ∧
      t = (s.withAgenda rest).busWrite Config.params off.toNat n.bytes v) ∨
    (∃ rest, s.agenda = .rst :: rest ∧ t = (s.withAgenda rest).hardReset Config.params) := turn_cases h

/-- `engineTurn_cases` for the default build. -/
theorem engineStep_cases (h : engineStep s = .next t) :
    (s.busy = false ∧ t = s) ∨
    (∃ w i, s.busy = true ∧ s.pending = some w ∧ decodeWord w = .ok i ∧ exec i s = .next t) ∨
    (∃ w e, s.busy = true ∧ s.pending = some w ∧ decodeWord w = .error e ∧ t = s.illegalCommand w) :=
  engineTurn_cases h

/-- The engine's turn on a word that is no command, taken from an empty agenda or as its next event
(spec/44_control_commands.md R173). -/
theorem step_of_illegal {w : Word} {e : DecodeError} (hb : s.busy = true) (hp : s.pending = some w)
    (hd : decodeWord w = .error e) :
    (s.agenda = [] → step s = .next (s.illegalCommand w)) ∧
    ∀ rest, s.agenda = .engine :: rest → step s = .next ((s.withAgenda rest).illegalCommand w) := by
  refine ⟨fun h => ?_, fun rest h => ?_⟩
  · rw [step_nil h, engineStep, engineTurn, hb, hp]; simp only [hd]
  · rw [step_cons h, eventStep, eventTurn, engineTurn, State.withAgenda_busy, State.withAgenda_pending, hb, hp]
    simp only [hd]

end

/-! ## Hardware reset -/

/-- A hardware reset clears the registers of the state itself, or of the state with a pending command abandoned. -/
theorem hardReset_cases (P : Params) (s : State) :
    s.hardReset P = s.clearRegisters ∨
    ∃ w i, s.busy = true ∧ s.pending = some w ∧ decodeWord w = .ok i ∧
      s.hardReset P = (s.abandon P i).clearRegisters := by
  unfold State.hardReset
  split
  · next w hb hp =>
    split
    · next i hd => exact .inr ⟨w, i, hb, hp, hd, rfl⟩
    · exact .inl rfl
  · exact .inl rfl

/-- A hardware reset while a command is pending abandons it. -/
theorem hardReset_of_pending (P : Params) {s : State} {w : Word} {i : Instr} (hb : s.busy = true)
    (hp : s.pending = some w) (hd : decodeWord w = .ok i) :
    s.hardReset P = (s.abandon P i).clearRegisters := by
  simp [State.hardReset, hb, hp, hd]

/-- Abandoning a command touches QBUF, OUT and the count of free values alone. -/
theorem abandon_frame (P : Params) (i : Instr) (s : State) :
    s.abandon P i = { s with
      qbuf := (s.abandon P i).qbuf, out := (s.abandon P i).out, fresh := (s.abandon P i).fresh } := by
  unfold State.abandon
  split
  · rfl
  · cases i <;> rfl

end Sys2Proof.Machine
end

