-- ==== Sys2Proof/Machine/HostProgram.lean ====
section
/-! DEFINITION. The host program notation of spec/30_encoding.md R98 and R99, and a host that runs such a program
against the block. The notation is no part of the block (spec/92_eei_decisions.md D29): no command and no step uses this
file. Names and labels are numbers. -/

namespace Sys2Proof.Machine

/-- One line of a host program (R98). -/
inductive HostOp where
  /-- `WR32 off, v`, `WR16 off, v`, `WR8 off, v`. -/
  | wr (n : Width) (off : Offset) (v : Word)
  /-- `RD32 off -> name`, `RD16 off -> name`, `RD8 off -> name`. -/
  | rd (n : Width) (off : Offset) (name : Nat)
  /-- `POLL32 off, mask, v`: repeat a read until `(t and mask) = v`. -/
  | poll32 (off : Offset) (mask v : Word)
  /-- `BNE name, v, label`: continue at the label if `name != v`. -/
  | bne (name : Nat) (v : Word) (label : Nat)
  /-- A label. -/
  | label (name : Nat)
  deriving DecidableEq, Repr

/-- `CMD op` (R99). -/
def opCmd (i : Instr) : List HostOp := [.wr .four 0x10#24 (encode i)]

/-- `WAIT` (R99): until BUSY = 0. -/
def opWait : List HostOp := [.poll32 0x14#24 0x1#32 0x0#32]

/-- `RUN op` (R99). -/
def opRun (i : Instr) : List HostOp := opCmd i ++ opWait

/-- `SETCFG mode, bpp, pad, tie` (R99). -/
def opSetcfg (mode bpp pad tie : Word) : List HostOp :=
  [.wr .four 0x24#24 (mode ||| (bpp <<< 4) ||| (pad <<< 8) ||| (tie <<< 12))]

/-- `SETDIM w, h` (R99). -/
def opSetdim (w h : Word) : List HostOp := [.wr .four 0x28#24 w, .wr .four 0x2C#24 h]

/-- `SETK rows, cols` (R99). -/
def opSetk (rows cols : Word) : List HostOp := [.wr .four 0x30#24 rows, .wr .four 0x34#24 cols]

/-- `SETT t` (R99). -/
def opSett (t : Word) : List HostOp := [.wr .four 0x38#24 t]

/-- `LDW r, c, b64` (R99). -/
def opLdw (P : Params) (r c : Nat) (b64 : F64) : List HostOp :=
  [.wr .four (BitVec.ofNat 24 (regionBase .kmem + kmemIndex P r c)) (b64.extractLsb' 0 32),
    .wr .four (BitVec.ofNat 24 (regionBase .kmem + kmemIndex P r c + 4)) (b64.extractLsb' 32 32)]

/-- `LDT r, c, t` (R99). -/
def opLdt (P : Params) (r c : Nat) (t : Byte) : List HostOp :=
  [.wr .one (BitVec.ofNat 24 (regionBase .tmem + r * P.tMax + c)) (t.setWidth 32)]

/-- `LDPIX i, b` (R99). -/
def opLdpix (i : Nat) (b : Byte) : List HostOp :=
  [.wr .one (BitVec.ofNat 24 (regionBase .pix + i)) (b.setWidth 32)]

/-- `CLRST` (R99): clears DONE, ERR, WARN, BUSYWR. -/
def opClrst : List HostOp := [.wr .four 0x14#24 0x1E#32]

/-- The host sequence for one page of spec/70_reset_and_hazards.md R226, after the kernel or the matrix is loaded. Its
reads go to the names 0, 1, 2: status, code, number of bytes. -/
def opPage (mode bpp pad tie w h : Word) (pixels : List Byte) : List HostOp :=
  opSetcfg mode bpp pad tie ++ opSetdim w h ++ (Mem.enum 0 pixels).flatMap (fun c => opLdpix c.1 c.2) ++ opClrst ++
    opRun .process ++ [.rd .four 0x14#24 0, .rd .four 0x18#24 1, .rd .four 0x3C#24 2]

/-- A host in the middle of a program, and the block it drives. -/
structure HostRun where
  ops : List HostOp
  line : Nat
  vars : List (Nat × Word)
  block : State
  deriving DecidableEq, Repr

/-- The agents of spec/70_reset_and_hazards.md R231. -/
inductive Turn where
  | host
  | engine
  | rst
  deriving DecidableEq, Repr

/-- Where a label stands in a program; the end of the program where there is none. -/
def labelAt (l : Nat) (ops : List HostOp) : Nat := ops.findIdx (fun o => decide (o = .label l))

/-- The block of the given build after one event; the host's own view of a fault or a refusal is that of the block. -/
def HostRun.onBlock (P : Params) (e : Event) (k : State → HostRun) (r : HostRun) : Host.Outcome HostRun Fault Refusal :=
  match stepOn P (r.block.withAgenda [e]) with
  | .next b => .next (k b)
  | .fault f => .fault f
  | .refused f => .refused f

/-- The data of a response; a refused read returns none (spec/20_memory.md R72). -/
def replyData : Option Reply → Option Word
  | some (.data v) => some v
  | _ => none

/-- One line of the host's program (R98). A host past its last line makes no access (spec/70_reset_and_hazards.md
R232). A refused read leaves its name as it was. -/
def HostRun.hostTurn (P : Params) (r : HostRun) : Host.Outcome HostRun Fault Refusal :=
  match r.ops[r.line]? with
  | none => .next r
  | some (.wr n off v) => r.onBlock P (.write off n v) (fun b => { r with block := b, line := r.line + 1 })
  | some (.rd n off name) =>
    r.onBlock P (.read off n) (fun b =>
      match replyData b.reply with
      | some v => { r with block := b, line := r.line + 1, vars := (name, v) :: r.vars }
      | none => { r with block := b, line := r.line + 1 })
  | some (.poll32 off mask v) =>
    r.onBlock P (.read off .four) (fun b =>
      if (replyData b.reply).map (fun t => t &&& mask) = some v then { r with block := b, line := r.line + 1 }
      else { r with block := b })
  | some (.bne name v l) =>
    .next { r with line := if r.vars.lookup name = some v then r.line + 1 else labelAt l r.ops }
  | some (.label _) => .next { r with line := r.line + 1 }

/-- One turn of one agent. -/
def HostRun.turn (P : Params) (r : HostRun) : Turn → Host.Outcome HostRun Fault Refusal
  | .host => r.hostTurn P
  | .engine => r.onBlock P .engine (fun b => { r with block := b })
  | .rst => r.onBlock P .rst (fun b => { r with block := b })

/-- A host program under one interleaving of the agents' turns: every interleaving is a run (U9, R233). -/
def HostRun.turns (P : Params) (r : HostRun) : List Turn → Host.Outcome HostRun Fault Refusal
  | [] => .next r
  | t :: ts =>
    match r.turn P t with
    | .next r' => HostRun.turns P r' ts
    | .fault f => .fault f
    | .refused f => .refused f

end Sys2Proof.Machine
end

