-- ==== Sys2Proof/Tests/Slice0.lean ====
section
/-! SUPPORT. Tests: the checks of WellFormed refuse ill-formed terms, the words of the encoding decode, one step gives
the vectors of spec/95_test_vectors.md, and each obligation's hypotheses are met by a concrete state. -/

namespace Sys2Proof.Tests

open Sys2Proof.Machine

/-! ## Well-formedness smoke -/

/-- A bit of RSV is set (R90). -/
theorem test_wf_reserved_bit_refused : wordReservedOk 0x00000011#32 = false ∧ wordWf 0x80000001#32 = false := by decide
/-- OP 7 and OP 15 are reserved (R92). -/
theorem test_wf_reserved_op_refused : wordOpOk 0x7#32 = false ∧ wordWf 0xF#32 = false := by decide
/-- A byte write of 256 and a half-word write of 65536 (R60). -/
theorem test_wf_wide_write_refused :
    (Event.write 0x2000#24 .one 0x100#32).wf = false ∧ (Event.write 0x2000#24 .two 0x10000#32).wf = false := by decide
/-- Each constraint of R6, and the two lower bounds of U16, broken in turn. -/
theorem test_wf_params_refused :
    ({ krMax := 1 } : Params).wf = false ∧ ({ krMax := 16 } : Params).wf = false ∧
    ({ kcMax := 6 } : Params).wf = false ∧ ({ kcMax := 17 } : Params).wf = false ∧
    ({ tMax := 7 } : Params).wf = false ∧ ({ tMax := 256 } : Params).wf = false ∧
    ({ maxW := 0 } : Params).wf = false ∧ ({ maxH := 65536, maxW := 1 } : Params).wf = false ∧
    ({ maxW := 2049 } : Params).wf = false ∧ ({ maxPix := 4194303 } : Params).wf = false ∧
    ({ outCap := 1048575 } : Params).wf = false ∧ ({ outCap := 0x400001 } : Params).wf = false ∧
    ({ blockBase := 0x800000 } : Params).wf = false := by decide
theorem test_wf_accepts :
    wordWf 0x6#32 = true ∧ (Event.write 0x2000#24 .one 0xFF#32).wf = true ∧ Config.params.wf = true ∧
    Instr.process.wf = true := ⟨by decide, by decide, Config.params_wf, by decide⟩

/-! ## Decoding: words written out from the opcode map of spec/30_encoding.md R92 -/

theorem test_decode_nop : decode [0x00#8, 0x00#8, 0x00#8, 0x00#8] = .ok (.nop, []) := by rfl
theorem test_decode_diffuse : decode [0x01#8, 0x00#8, 0x00#8, 0x00#8] = .ok (.diffuse, []) := by rfl
theorem test_decode_ordered : decode [0x02#8, 0x00#8, 0x00#8, 0x00#8] = .ok (.ordered, []) := by rfl
theorem test_decode_quantize : decode [0x03#8, 0x00#8, 0x00#8, 0x00#8] = .ok (.quantize, []) := by rfl
theorem test_decode_pack : decode [0x04#8, 0x00#8, 0x00#8, 0x00#8] = .ok (.pack, []) := by rfl
theorem test_decode_process : decode [0x05#8, 0x00#8, 0x00#8, 0x00#8] = .ok (.process, []) := by rfl
theorem test_decode_softreset : decode [0x06#8, 0x00#8, 0x00#8, 0x00#8] = .ok (.softreset, []) := by rfl
/-- Illegal words of R94, and the byte order of R73: 0x00000100 has its set bit in the second byte. -/
theorem test_decode_rejects :
    decode [0x07#8, 0x00#8, 0x00#8, 0x00#8] = .error (.reservedOp 0x7#32) ∧
    decode [0x01#8, 0x01#8, 0x00#8, 0x00#8] = .error (.reservedBits 0x101#32) ∧
    decode [0x01#8, 0x00#8] = .error (.truncated 2) := by
  refine ⟨?_, ?_, ?_⟩ <;> rfl
theorem test_decodeTableWord : decodeTableWord 32 5 = some .process ∧ decodeTableWord 32 0x15 = none := by decide

/-! ## Small states -/

/-- The next state a step answers, where it answers one. -/
def nextOf : Host.Outcome State Fault Refusal → Option State
  | .next s => some s
  | .fault _ => none
  | .refused _ => none

/-- After reset, with CFG, WIDTH, HEIGHT and PIX written. -/
def page (mode bpp pad : BitVec 2) (w h : Word) (pixels : List Byte) : State :=
  { State.reset with mode := mode, bpp := bpp, padmode := pad, width := w, height := h, pix := Mem.enum 0 pixels }

/-- After reset, with CFG, WIDTH and QBUF written: one row. -/
def row (bpp pad : BitVec 2) (values : List QVal) : State :=
  { State.reset with
    bpp := bpp, padmode := pad, width := BitVec.ofNat 32 values.length, height := 1#32, qbuf := Mem.enum 0 values }

/-- The bytes of a weight, lowest first (R64). -/
def weightBytes (w : F64) : List Byte := (List.range 8).map (fun b => w.extractLsb' (8 * b) 8)

/-- The weights of the kernel FS of R123, patterns of spec/93_implementation_defined.md G1: 7/16, 3/16, 5/16, 1/16. -/
def fsWeight (r c : Nat) : F64 :=
  if r = 0 then 0x3FDC000000000000#64
  else if c = 0 then 0x3FC8000000000000#64
  else if c = 1 then 0x3FD4000000000000#64 else 0x3FB0000000000000#64

/-- KMEM with FS loaded: cells (0,2) at byte 16, (1,0) to (1,2) at bytes 56 to 79. -/
def fsKmem : Mem Byte :=
  Mem.enum 16 (weightBytes (fsWeight 0 2)) ++
    Mem.enum 56 (weightBytes (fsWeight 1 0) ++ weightBytes (fsWeight 1 1) ++ weightBytes (fsWeight 1 2))

/-- The state with FS loaded. -/
def withFs (s : State) : State := { s with krows := 2#32, kcols := 3#32, kmem := fsKmem }

/-- A command accepted: BUSY and its word in PENDING. -/
def pending (i : Instr) (s : State) : State := s.accept (encode i)

/-! ## One step, against the vectors of spec/95_test_vectors.md -/

/-- V-CT-1: STATUS 0x2, ERRCODE 0. -/
theorem test_nop :
    (nextOf (step (State.reset.withFetchWord 32 0))).map (fun t => (t.statusWord, t.errcode)) =
      some (0x2#32, 0#8) := by decide
/-- V-CT-2: ERR(7, 0x10, 0x7), STATUS 0x6. -/
theorem test_illegal :
    (nextOf (step (State.reset.withFetchWord 32 7))).map (fun t => (t.statusWord, t.errcode, t.errinfo, t.errarg)) =
      some (0x6#32, 7#8, 0x10#8, 7#32) := by decide
/-- V-ED-6: a negative sample at pixel (0,1). -/
theorem test_diffuse_negative_sample :
    (nextOf (exec .diffuse (withFs (page 0#2 1#2 0#2 4#32 2#32
      [200#8, 10#8, 30#8, 220#8, 90#8, 160#8, 45#8, 250#8])))).map (fun t => t.qbuf) =
      some (Mem.enum 0 [1#2, 0#2, 0#2, 1#2, 0#2, 1#2, 0#2, 1#2]) := by decide +kernel
/-- V-ED-9 with TIE 1: the sample of pixel 1 is exactly one half. -/
theorem test_diffuse_tie :
    (nextOf (exec .diffuse { page 0#2 1#2 0#2 2#32 1#32 [1#8, 127#8] with
      edtie := true, krows := 1#32, kcols := 3#32,
      kmem := Mem.enum 16 (weightBytes 0x3FE0000000000000#64) })).map (fun t => t.qbuf) =
      some (Mem.enum 0 [0#2, 1#2]) := by decide +kernel
/-- V-OD-1: the source's example S1, corrected. -/
theorem test_ordered :
    (nextOf (exec .ordered { page 0#2 1#2 0#2 2#32 2#32 [10#8, 200#8, 50#8, 180#8] with
      tsize := 2#32, tmem := [(0, 0#8), (1, 128#8), (16, 64#8), (17, 192#8)] })).map (fun t => t.qbuf) =
      some (Mem.enum 0 [1#2, 1#2, 0#2, 0#2]) := by decide
/-- V-OD-3: equal is not above. -/
theorem test_ordered_equal :
    (nextOf (exec .ordered { page 0#2 1#2 0#2 2#32 1#32 [127#8, 128#8] with tsize := 1#32, tmem := [(0, 127#8)] })).map
      (fun t => t.qbuf) = some (Mem.enum 0 [0#2, 1#2]) := by decide
/-- V-QZ-2. -/
theorem test_quantize :
    (nextOf (exec .quantize (page 0#2 2#2 0#2 8#32 1#32
      [0#8, 63#8, 64#8, 127#8, 128#8, 191#8, 192#8, 255#8]))).map (fun t => t.qbuf) =
      some (Mem.enum 0 [0#2, 0#2, 1#2, 1#2, 2#2, 2#2, 3#2, 3#2]) := by decide
/-- V-ER-9: ERR(3, 0x24, 0) from reset. -/
theorem test_quantize_depth :
    (nextOf (exec .quantize State.reset)).map (fun t => (t.errcode, t.errinfo, t.errarg, t.qbuf)) =
      some (3#8, 0x24#8, 0#32, []) := by decide
/-- V-PK-10, PAD 1: the last pixel is padded with 3s, that is with zero fields. -/
theorem test_pack_pad :
    (nextOf (exec .pack (row 2#2 1#2 [0#2, 1#2, 2#2, 3#2, 1#2]))).map (fun t => (t.out, t.outlen, t.statusWord)) =
      some ([(0, 0xE4#8), (1, 0x80#8)], 2#32, 0xA#32) := by decide
/-- V-PK-11: ERR(9, 0xFF, 1). -/
theorem test_pack_qrange :
    (nextOf (exec .pack (row 1#2 0#2 [0#2, 2#2, 1#2, 3#2, 0#2, 0#2, 0#2, 0#2]))).map
      (fun t => (t.errcode, t.errinfo, t.errarg, t.out)) = some (9#8, 0xFF#8, 1#32, []) := by decide
/-- Program P1: S3 by PROCESS with MODE 0. -/
theorem test_process :
    (nextOf (exec .process (page 0#2 2#2 0#2 4#32 1#32 [0#8, 100#8, 150#8, 255#8]))).map
      (fun t => (t.qbuf, t.out, t.outlen)) =
      some (Mem.enum 0 [0#2, 1#2, 2#2, 3#2], [(0, 0xE4#8)], 1#32) := by decide
/-- V-CT-11: the packing's check fails first, QBUF is kept. -/
theorem test_process_checks_first :
    (nextOf (exec .process { withFs (page 1#2 1#2 0#2 3#32 1#32 [1#8, 2#8, 3#8]) with
      qbuf := Mem.enum 0 [2#2, 2#2, 2#2] })).map (fun t => (t.errcode, t.errinfo, t.errarg, t.qbuf)) =
      some (4#8, 0x24#8, 3#32, Mem.enum 0 [2#2, 2#2, 2#2]) := by decide +kernel
/-- V-CT-6: every register cleared, STATUS 0x2; a memory cell is kept. -/
theorem test_softreset :
    nextOf (exec .softreset { page 1#2 2#2 3#2 4#32 5#32 [9#8] with err := true, busywr := true, irqen := true }) =
      some { State.reset with done := true, pix := [(0, 9#8)] } := by decide
/-- V-CT-8: five refused accesses. -/
theorem test_bus_refused :
    accessRegion Config.params 0x14 1 = none ∧ accessRegion Config.params 0x14 2 = none ∧
    accessRegion Config.params 0x400001 4 = none ∧ accessRegion Config.params 0x3000 4 = none ∧
    accessRegion Config.params 0x10E0 4 = none := by decide
/-- Program P1's fourth line: four pixels by one 32-bit write, little-endian. -/
theorem test_bus_write_pix :
    (State.reset.busWrite Config.params 0x400000 4 0xFF966400#32).pix = Mem.enum 0 [0#8, 100#8, 150#8, 255#8] := by
  decide
/-- V-CT-7: writing 1 to DONE drops irq. -/
theorem test_bus_status_clear :
    let s : State := { State.reset with irqen := true, done := true }
    s.irq = true ∧ (s.busWrite Config.params 0x14 4 2#32).statusWord = 0#32 ∧
      (s.busWrite Config.params 0x14 4 2#32).irq = false := by decide
/-- R222: a reset before a pending QUANTIZE runs leaves its N cells unwritten, and no other. -/
theorem test_reset_abandons :
    (nextOf (step { pending .quantize (page 0#2 1#2 0#2 2#32 1#32 [1#8, 2#8]) with
      qbuf := Mem.enum 0 [1#2, 1#2, 1#2], agenda := [.rst] })).map (fun t => (t.qbuf, t.busy, t.width)) =
      some ([(2, 1#2)], false, 0#32) := by decide
/-- R6, R191: a build with MAXW 8 rejects the width 9, which the default build takes. -/
theorem test_build_maxw :
    (nextOf (stepOn { maxW := 8 } (pending .quantize (page 0#2 1#2 0#2 9#32 1#32 [])))).map
      (fun t => (t.errcode, t.errinfo, t.errarg)) = some (2#8, 0x28#8, 9#32) ∧
    (nextOf (stepOn {} (pending .quantize (page 0#2 1#2 0#2 9#32 1#32 [])))).map (fun t => t.errcode) = some 0#8 := by
  decide
/-- R13: -0 is not below +0, so each is at least the other; a NaN compares as false. -/
theorem test_f64_ge :
    f64Ge 0#64 0x8000000000000000#64 = true ∧ f64Ge 0x8000000000000000#64 0#64 = true ∧
    f64Ge 0x7FF8000000000000#64 0x7FF8000000000000#64 = false ∧
    f64Ge 0x3FE0000000000000#64 0x3FF0000000000000#64 = false ∧
    f64Ge 0xBFE0000000000000#64 0xBFF0000000000000#64 = true := by decide
/-- R99, and program P1's line `SETCFG 0,2,0,0`. -/
theorem test_host_setcfg : opSetcfg 0#32 2#32 0#32 0#32 = [.wr .four 0x24#24 0x20#32] := by decide
/-- R99: LDW 1,2 goes to 0x1048 and 0x104C. -/
theorem test_host_ldw :
    opLdw Config.params 1 2 0x3FB0000000000000#64 =
      [.wr .four 0x1048#24 0#32, .wr .four 0x104C#24 0x3FB00000#32] := by decide
/-- Reset's memories are in canonical form. -/
theorem test_reset_memories_wf :
    Mem.Wf State.reset.pix ∧ Mem.Wf State.reset.qbuf ∧ Mem.Wf State.reset.out ∧ Mem.Wf State.reset.kmem ∧
    Mem.Wf State.reset.tmem := by decide

/-! ## Witnesses: a state or an input that meets every hypothesis of each obligation

One theorem for each obligation that has hypotheses, named after it; where a statement has several clauses, one
conjunct for each, at the ends of its range. -/

theorem witness_CommandWordsDecode : 7 ≤ (7#4).toNat ∧ 7 ≤ (15#4).toNat := by decide

theorem witness_DecodeEncodeAgree : Instr.nop.wf = true ∧ Instr.softreset.wf = true := by decide

theorem witness_StepRunsDecodedCommand :
    (∃ s : State, s.busy = true ∧ s.pending = some 0x3#32 ∧ decodeWord 0x3#32 = .ok .quantize ∧
      Instr.quantize.wf = true ∧ s.agenda = []) ∧
    ∃ s : State, s.busy = true ∧ s.pending = some 0x6#32 ∧ decodeWord 0x6#32 = .ok .softreset ∧
      Instr.softreset.wf = true ∧ s.agenda = .engine :: [.rst] :=
  ⟨⟨pending .quantize State.reset, rfl, rfl, rfl, rfl, rfl⟩,
    ⟨{ pending .softreset State.reset with agenda := [.engine, .rst] }, rfl, rfl, rfl, rfl, rfl⟩⟩

theorem witness_IdleEngineChangesNothing :
    (State.reset.busy = false ∧ State.reset.agenda = []) ∧
    ∃ s : State, s.busy = false ∧ s.agenda = .engine :: [] :=
  ⟨⟨rfl, rfl⟩, { State.reset with agenda := [.engine] }, rfl, rfl⟩

theorem witness_IllegalWordCompletesWithError :
    (∃ s s' : State, s.busy = true ∧ s.pending = some 0x7#32 ∧ s.agenda = [] ∧ 7 ≤ (0x7#32).toNat % 16 ∧
      s'.busy = true ∧ s'.pending = some 0x10#32 ∧ s'.agenda = [] ∧ (0x10#32).toNat / 16 ≠ 0) ∧
    ∃ s : State, s.busy = true ∧ s.pending = some 0xF#32 ∧ s.agenda = .engine :: [.rst] ∧ 7 ≤ (0xF#32).toNat % 16 :=
  ⟨⟨State.reset.accept 0x7#32, State.reset.accept 0x10#32, rfl, rfl, rfl, by decide, rfl, rfl, rfl, by decide⟩,
    ⟨{ State.reset.accept 0xF#32 with agenda := [.engine, .rst] }, rfl, rfl, rfl, by decide⟩⟩

/-- One pixel at BPP 1, and the largest image at BPP 2. -/
theorem witness_QuantizeResult :
    ∃ s s' : State, s.DepthLegal ∧ s.SizeLegal Config.params ∧ s.BPP = 1 ∧ s.N = 1 ∧ Mem.cell s.pix 0 = some 255#8 ∧
      s'.DepthLegal ∧ s'.SizeLegal Config.params ∧ s'.BPP = 2 ∧ s'.N = 4194304 :=
  ⟨page 0#2 1#2 0#2 1#32 1#32 [255#8], page 0#2 2#2 0#2 2048#32 2048#32 [], by decide⟩

theorem witness_PaletteIsEqualWidthBins : (1 = 1 ∨ 1 = 2) ∧ (2 = 1 ∨ 2 = 2) := by decide

/-- T at both ends of its range. -/
theorem witness_OrderedResult :
    ∃ s s' : State, s.DepthLegal ∧ s.SizeLegal Config.params ∧ s.ThresholdLegal Config.params ∧ s.T = 1 ∧
      s'.DepthLegal ∧ s'.SizeLegal Config.params ∧ s'.ThresholdLegal Config.params ∧ s'.T = 16 :=
  ⟨{ page 0#2 1#2 0#2 2#32 1#32 [1#8, 2#8] with tsize := 1#32, tmem := [(0, 7#8)] },
    { page 0#2 2#2 0#2 2#32 1#32 [1#8, 2#8] with tsize := 16#32 }, by decide⟩

/-- FS is a legal kernel in every state that has it loaded. -/
theorem withFs_kernelLegal (s : State) : (withFs s).KernelLegal Config.params fsWeight := by
  have hs : (withFs s).KC = 3 ∧ (withFs s).KR = 2 := ⟨rfl, rfl⟩
  refine ⟨by rw [State.KernelShapeLegal, hs.1, hs.2]; decide, fun r c h => ?_⟩
  obtain ⟨hr, hc, hk⟩ := h
  rw [hs.2] at hr
  rw [hs.1] at hc hk
  have key : ∀ r < 2, ∀ c < 3, (1 ≤ r ∨ (r = 0 ∧ 3 / 2 < c)) →
      (∀ b < 8, Mem.cell fsKmem (8 * (r * Config.params.kcMax + c) + b) =
        some ((fsWeight r c).extractLsb' (8 * b) 8)) ∧ WeightLegal (fsWeight r c) := by decide +kernel
  exact key r hr c hc hk

theorem witness_DiffuseResult :
    ∃ (s : State) (w : Nat → Nat → F64), s.DepthLegal ∧ s.SizeLegal Config.params ∧ s.KernelLegal Config.params w ∧
      ∃ b, Mem.cell s.pix 0 = some b :=
  ⟨withFs (page 0#2 2#2 0#2 2#32 2#32 [128#8]), fsWeight, by decide, by decide, withFs_kernelLegal _, 128#8, rfl⟩

/-- A kernel that no byte of is written, at both ends of the shape's range. -/
theorem witness_DiffuseExtremesOrKernelError :
    ∃ s s' : State, s.DepthLegal ∧ s.SizeLegal Config.params ∧ s.KernelShapeLegal Config.params ∧ s.KC = 1 ∧ s.KR = 1 ∧
      s'.DepthLegal ∧ s'.SizeLegal Config.params ∧ s'.KernelShapeLegal Config.params ∧ s'.KC = 7 ∧ s'.KR = 4 :=
  ⟨{ page 0#2 1#2 0#2 1#32 1#32 [] with krows := 1#32, kcols := 1#32 },
    { page 0#2 1#2 0#2 1#32 1#32 [] with krows := 4#32, kcols := 7#32 }, by decide⟩

theorem witness_DiffuseUniformExtremes :
    ∃ (s s' : State) (w : Nat → Nat → F64), s.DepthLegal ∧ s.SizeLegal Config.params ∧ s.KernelLegal Config.params w ∧
      (∀ i < s.N, Mem.cell s.pix i = some 0#8) ∧ s'.DepthLegal ∧ s'.SizeLegal Config.params ∧
      s'.KernelLegal Config.params w ∧ ∀ i < s'.N, Mem.cell s'.pix i = some 255#8 :=
  ⟨withFs (page 0#2 1#2 0#2 2#32 1#32 [0#8, 0#8]), withFs (page 0#2 2#2 0#2 2#32 1#32 [255#8, 255#8]), fsWeight,
    by decide, by decide, withFs_kernelLegal _, by decide, by decide, by decide, withFs_kernelLegal _, by decide⟩

theorem witness_SampleIsFoldOfContributions :
    ([1#8, 2#8] : List Byte).length = 2 * 1 ∧ 0 < 2 * 1 ∧ 1 < 2 * 1 ∧
    0x7FF0000000000000 < (0xFFF0000000000001#64).toNat % 2 ^ 63 := by decide

/-- A cell to the right in row 0 and a cell to the left in row 1. -/
theorem witness_AppliedCellsReachLaterPixels :
    (0 < 2 * 2 ∧ (0 = 0 ∧ 1 < 2) ∧ tapTarget 2 2 1 (0 / 2) (0 % 2) 0 2 = some 1) ∧
    (1 < 2 * 2 ∧ 1 ≤ 1 ∧ tapTarget 2 2 1 (1 / 2) (1 % 2) 1 0 = some 2) := by decide

theorem witness_OneContributionPerTarget :
    0 < 2 ∧ tapTarget 2 2 1 0 0 1 1 = some 2 ∧ tapTarget 2 2 1 0 0 1 1 = some 2 := by decide

/-- The kernel FS in exact rationals. -/
def fsTaps : List (Tap ℚ) := [⟨0, 2, 7 / 16⟩, ⟨1, 0, 3 / 16⟩, ⟨1, 1, 5 / 16⟩, ⟨1, 2, 1 / 16⟩]

theorem witness_ExactSamplesBounded :
    ([128#8, 128#8] : List Byte).length = 2 * 1 ∧ (∀ t ∈ fsTaps, 0 ≤ t.weight) ∧
      (fsTaps.map (fun t => t.weight)).sum ≤ 1 := by decide +kernel

theorem witness_ErrorAccounting :
    ([128#8, 128#8] : List Byte).length = 2 * 1 ∧ ∀ t ∈ fsTaps, 1 ≤ t.row ∨ (t.row = 0 ∧ 1 < t.col) := by
  decide +kernel

/-- The two states differ in MODE, PADMODE, OUTLEN, a pixel past N, and TMEM. -/
theorem witness_DiffuseDependsOnItsInputsAlone :
    ∃ (s s' : State) (w : Nat → Nat → F64), s ≠ s' ∧ s.DepthLegal ∧ s.SizeLegal Config.params ∧
      s.KernelLegal Config.params w ∧ s'.KernelLegal Config.params w ∧ s'.width = s.width ∧ s'.height = s.height ∧
      s'.krows = s.krows ∧ s'.kcols = s.kcols ∧ s'.bpp = s.bpp ∧ s'.edtie = s.edtie ∧
      ∀ i < s.N, ∃ p, Mem.cell s.pix i = some p ∧ Mem.cell s'.pix i = some p :=
  ⟨withFs (page 0#2 1#2 0#2 1#32 1#32 [128#8]),
    withFs { page 2#2 1#2 3#2 1#32 1#32 [128#8, 5#8] with outlen := 9#32, tmem := [(0, 1#8)] }, fsWeight,
    by decide, by decide, by decide, withFs_kernelLegal _, withFs_kernelLegal _, rfl, rfl, rfl, rfl, rfl, rfl, by decide⟩

/-- A full group, a padded one, a dropped one. -/
theorem witness_PackResult :
    ∀ s ∈ [row 2#2 0#2 [0#2, 1#2, 2#2, 3#2], row 1#2 1#2 [1#2, 0#2, 1#2], row 2#2 2#2 [3#2, 1#2]],
      s.DepthLegal ∧ s.SizeLegal Config.params ∧ s.PackLegal ∧ s.QbufLegal := by decide

theorem witness_UnpackAfterPackIsIdentity :
    let s := row 1#2 0#2 [1#2, 0#2, 1#2, 1#2, 0#2, 0#2, 0#2, 1#2]
    s.DepthLegal ∧ s.SizeLegal Config.params ∧ s.PAD ≠ 3 ∧ s.N % (8 / s.BPP) = 0 ∧ s.QbufLegal ∧
      Mem.cell s.qbuf 7 = some 1#2 := by decide

/-- Each PADMODE, at both depths, with a partial group and without one. -/
theorem witness_PartialGroupByPadMode :
    ∀ pad : BitVec 2,
      (∀ s ∈ [row 1#2 pad [1#2, 0#2], row 2#2 pad [3#2, 0#2, 1#2]],
        s.DepthLegal ∧ s.SizeLegal Config.params ∧ s.QbufLegal ∧ s.N % (8 / s.BPP) ≠ 0 ∧ s.PAD = pad.toNat) ∧
      let s := row 2#2 pad [3#2, 0#2, 1#2, 2#2]
      s.DepthLegal ∧ s.SizeLegal Config.params ∧ s.QbufLegal ∧ s.N % (8 / s.BPP) = 0 ∧ s.PAD = pad.toNat := by decide

/-- Each MODE that is assigned. -/
theorem witness_ProcessCompletes :
    (∃ s : State, s.DepthLegal ∧ s.SizeLegal Config.params ∧ s.PackLegal ∧ s.MODE = 0) ∧
    (∃ (s : State) (w : Nat → Nat → F64), s.DepthLegal ∧ s.SizeLegal Config.params ∧ s.PackLegal ∧ s.MODE = 1 ∧
      s.KernelLegal Config.params w) ∧
    ∃ s : State, s.DepthLegal ∧ s.SizeLegal Config.params ∧ s.PackLegal ∧ s.MODE = 2 ∧
      s.ThresholdLegal Config.params :=
  ⟨⟨page 0#2 2#2 0#2 4#32 1#32 [], by decide⟩,
    ⟨withFs (page 1#2 1#2 1#2 3#32 1#32 []), fsWeight, by decide, by decide, by decide, rfl, withFs_kernelLegal _⟩,
    ⟨{ page 2#2 1#2 2#2 1#32 1#32 [] with tsize := 16#32 }, by decide⟩⟩

theorem witness_ProcessIsConversionThenPack :
    (∃ s : State, s.MODE = 0 ∧ (validate Config.params .process s).1 = none) ∧
    (∃ s : State, s.MODE = 1 ∧ (validate Config.params .process s).1 = none) ∧
    ∃ s : State, s.MODE = 2 ∧ (validate Config.params .process s).1 = none :=
  ⟨⟨page 0#2 2#2 0#2 4#32 1#32 [], by decide⟩, ⟨withFs (page 1#2 1#2 1#2 3#32 1#32 []), by decide +kernel⟩,
    ⟨{ page 2#2 1#2 2#2 1#32 1#32 [] with tsize := 16#32 }, by decide⟩⟩

/-- Both clauses, for each MODE. -/
theorem witness_ProcessChecksPackingFirst :
    (∀ pad : BitVec 2, pad = 0#2 ∨ pad = 3#2 →
      let s := page 0#2 1#2 pad 3#32 1#32 []
      s.DepthLegal ∧ s.SizeLegal Config.params ∧ s.MODE = 0 ∧ s.PAD = pad.toNat ∧ s.N % (8 / s.BPP) ≠ 0) ∧
    (∃ (s : State) (w : Nat → Nat → F64), s.DepthLegal ∧ s.SizeLegal Config.params ∧ s.MODE = 1 ∧
      s.KernelLegal Config.params w ∧ s.PAD = 0 ∧ s.N % (8 / s.BPP) ≠ 0) ∧
    ∃ s : State, s.DepthLegal ∧ s.SizeLegal Config.params ∧ s.MODE = 2 ∧ s.ThresholdLegal Config.params ∧ s.PAD = 3 :=
  ⟨by decide,
    ⟨withFs (page 1#2 1#2 0#2 3#32 1#32 []), fsWeight, by decide, by decide, rfl, withFs_kernelLegal _, rfl, by decide⟩,
    ⟨{ page 2#2 1#2 3#2 1#32 1#32 [] with tsize := 1#32 }, by decide⟩⟩

/-- A command that a check rejects, and an illegal word. -/
theorem witness_ErrorsLeaveOnlyTheStatus :
    ∀ w : Word, w = 3#32 ∨ w = 7#32 →
      (∃ s t : State, s.busy = true ∧ s.agenda = [] ∧ step s = .next t ∧ t.errcode ≠ 0#8) ∧
      ∃ s t : State, s.busy = true ∧ s.agenda = .engine :: [.rst] ∧ step s = .next t ∧ t.errcode ≠ 0#8 := by
  rintro w (rfl | rfl)
  · exact ⟨⟨State.reset.accept 3#32, _, rfl, rfl, rfl, by decide⟩,
      ⟨{ State.reset.accept 3#32 with agenda := [.engine, .rst] }, _, rfl, rfl, rfl, by decide⟩⟩
  · exact ⟨⟨State.reset.accept 7#32, _, rfl, rfl, rfl, by decide⟩,
      ⟨{ State.reset.accept 7#32 with agenda := [.engine, .rst] }, _, rfl, rfl, rfl, by decide⟩⟩

/-- Both unsupported depths; MODE 0 for PROCESS. -/
theorem witness_UnsupportedDepthReported :
    (page 0#2 0#2 0#2 1#32 1#32 []).BPP = 0 ∧ (page 0#2 3#2 0#2 1#32 1#32 []).BPP = 3 ∧
      (page 0#2 3#2 0#2 1#32 1#32 []).MODE ≠ 3 := by decide

/-- Zero and one above the capacity, for both sides. -/
theorem witness_BadDimensionsReported :
    (∀ w : Word, w = 0#32 ∨ w = 2049#32 →
      let s := page 0#2 1#2 0#2 w 0#32 []
      s.DepthLegal ∧ s.MODE ≠ 3 ∧ (s.W = 0 ∨ Config.params.maxW < s.W)) ∧
    ∀ h : Word, h = 0#32 ∨ h = 2049#32 →
      let s := page 0#2 1#2 0#2 2048#32 h []
      s.DepthLegal ∧ s.MODE ≠ 3 ∧ (1 ≤ s.W ∧ s.W ≤ Config.params.maxW) ∧ (s.H = 0 ∨ Config.params.maxH < s.H) := by
  refine ⟨?_, ?_⟩
  · rintro w (rfl | rfl) <;> decide
  · rintro h (rfl | rfl) <;> decide

/-- An even, a zero and an oversize column count; then a zero and an oversize row count. -/
theorem witness_BadKernelShapeReported :
    (∀ k : Word, k = 0#32 ∨ k = 2#32 ∨ k = 9#32 →
      let s := { page 1#2 1#2 0#2 1#32 1#32 [] with kcols := k }
      s.DepthLegal ∧ s.SizeLegal Config.params ∧ s.MODE = 1 ∧ (s.KC % 2 = 0 ∨ Config.params.kcMax < s.KC)) ∧
    ∀ k : Word, k = 0#32 ∨ k = 5#32 →
      let s := { page 1#2 1#2 0#2 1#32 1#32 [] with kcols := 7#32, krows := k }
      s.DepthLegal ∧ s.SizeLegal Config.params ∧ s.MODE = 1 ∧ (s.KC % 2 = 1 ∧ s.KC ≤ Config.params.kcMax) ∧
        (s.KR = 0 ∨ Config.params.krMax < s.KR) := by
  refine ⟨?_, ?_⟩
  · rintro k (rfl | rfl | rfl) <;> decide
  · rintro k (rfl | rfl) <;> decide

/-- V-ER-8 by DIFFUSE and by PROCESS: the first applied cell of a 1 by 3 kernel is not a number. -/
theorem witness_BadWeightReported :
    ∃ (s : State) (w : Nat → Nat → F64), s.DepthLegal ∧ s.SizeLegal Config.params ∧ s.KernelShapeLegal Config.params ∧
      s.MODE = 1 ∧ s.AppliedCell 0 2 ∧ s.HoldsWeight Config.params 0 2 (w 0 2) ∧ ¬ WeightLegal (w 0 2) ∧
      ∀ r' c', s.AppliedCell r' c' → r' < 0 ∨ (r' = 0 ∧ c' < 2) →
        s.HoldsWeight Config.params r' c' (w r' c') ∧ WeightLegal (w r' c') := by
  refine ⟨{ page 1#2 1#2 0#2 1#32 1#32 [] with
      krows := 1#32, kcols := 3#32, kmem := Mem.enum 16 (weightBytes 0x7FF8000000000000#64) },
    fun _ _ => 0x7FF8000000000000#64, by decide, by decide, by decide, rfl, by decide, by decide +kernel, by decide,
    fun r' c' ha hb => ?_⟩
  have h : 1 ≤ r' ∨ (r' = 0 ∧ 1 < c') := ha.2.2
  omega

/-- T at zero and one above its range, for both commands. -/
theorem witness_BadThresholdSideReported :
    ∀ k : Word, k = 0#32 ∨ k = 17#32 →
      let s := { page 2#2 1#2 0#2 1#32 1#32 [] with tsize := k }
      s.DepthLegal ∧ s.SizeLegal Config.params ∧ s.MODE = 2 ∧ (s.T = 0 ∨ Config.params.tMax < s.T) := by
  rintro k (rfl | rfl) <;> decide

/-- The first and the last index of the image. -/
theorem witness_QvalueRangeReported :
    ∀ iv ∈ [(0, [2#2, 0#2]), (1, [1#2, 3#2])],
      let s := row 1#2 1#2 iv.2
      s.BPP = 1 ∧ s.SizeLegal Config.params ∧ s.PackLegal ∧ iv.1 < s.N ∧
        (∃ q : QVal, Mem.cell s.qbuf iv.1 = some q ∧ 1 < q.toNat) ∧
        ∀ j < iv.1, ∃ q' : QVal, Mem.cell s.qbuf j = some q' ∧ q'.toNat ≤ 1 := by decide

theorem witness_ReservedModeReported : (page 3#2 0#2 0#2 0#32 0#32 []).MODE = 3 := by decide

/-- The addresses next to the window's ends, outside it, and its ends. -/
theorem witness_AccessMap :
    ∃ P : Params, 0x1FFFFFF < P.blockBase ∧ P.blockBase + 0xFFFFFF < 0x3000000 ∧
      0x2000000 = P.blockBase + (0x0#24).toNat ∧ 0x2FFFFFF = P.blockBase + (0xFFFFFF#24).toNat :=
  ⟨{ blockBase := 0x2000000 }, by decide⟩

/-- A refused read, and a refused write while BUSY. -/
theorem witness_RefusedAccessChangesNothing :
    (∃ s : State, accessRegion Config.params (0x10E0#24).toNat Width.four.bytes = none ∧
      s.agenda = .read 0x10E0#24 .four :: []) ∧
    ∃ s : State, accessRegion Config.params (0x400001#24).toNat Width.two.bytes = none ∧ s.busy = true ∧
      s.agenda = .write 0x400001#24 .two 0#32 :: [] :=
  ⟨⟨{ State.reset with agenda := [.read 0x10E0#24 .four] }, by decide, rfl⟩,
    ⟨{ pending .nop State.reset with agenda := [.write 0x400001#24 .two 0#32] }, by decide, rfl, rfl⟩⟩

theorem witness_WriteWhileBusyDropped :
    ∃ s : State, s.busy = true ∧ accessRegion Config.params (0x10#24).toNat Width.four.bytes ≠ none ∧
      s.agenda = .write 0x10#24 .four 6#32 :: [.engine] :=
  ⟨{ pending .nop State.reset with agenda := [.write 0x10#24 .four 6#32, .engine] }, rfl, by decide, rfl⟩

/-- A write that the window admits, for SOFTRESET and for another command. -/
theorem witness_WritesCannotChangeARunningCommand :
    (∃ s t : State, s.busy = true ∧ s.pending = some (encode .nop) ∧ step (s.withAgenda []) = .next t ∧
      accessRegion Config.params (0x28#24).toNat Width.four.bytes ≠ none) ∧
    ∃ s t : State, s.busy = true ∧ s.pending = some (encode .softreset) ∧ step (s.withAgenda []) = .next t ∧
      accessRegion Config.params (0x28#24).toNat Width.four.bytes ≠ none :=
  ⟨⟨pending .nop State.reset, _, rfl, rfl, rfl, by decide⟩, ⟨pending .softreset State.reset, _, rfl, rfl, rfl, by decide⟩⟩

/-- A read of each register while BUSY; of the last half-word of KMEM while BUSY; of the first word of QBUF while
idle. -/
theorem witness_ReadsAnswerAndHaveNoSideEffects :
    (∀ off ∈ [0x14#24, 0x18#24, 0x1C#24, 0x20#24, 0x3C#24, 0x0C#24, 0x24#24, 0x28#24, 0x2C#24, 0x30#24, 0x34#24,
      0x38#24], ∃ s : State, s.busy = true ∧ s.agenda = .read off .four :: []) ∧
    (∃ s : State, s.agenda = .read 0x10DE#24 .two :: [] ∧
      accessRegion Config.params (0x10DE#24).toNat Width.two.bytes = some .kmem ∧ s.busy = true ∧
      (0xBEEF#32).toNat < 2 ^ (8 * Width.two.bytes) ∧
      ∀ j < Width.two.bytes, s.byteAt Config.params ((0x10DE#24).toNat + j) = some ((0xBEEF#32).extractLsb' (8 * j) 8)) ∧
    ∃ s : State, s.agenda = .read 0x800000#24 .four :: [] ∧
      accessRegion Config.params (0x800000#24).toNat Width.four.bytes = some .qbuf ∧ s.busy = false ∧
      ∀ j < Width.four.bytes,
        s.byteAt Config.params ((0x800000#24).toNat + j) = some ((0x03020100#32).extractLsb' (8 * j) 8) :=
  ⟨fun off _ => ⟨{ pending .nop State.reset with agenda := [.read off .four] }, rfl, rfl⟩,
    ⟨{ pending .nop State.reset with agenda := [.read 0x10DE#24 .two], kmem := [(222, 0xEF#8), (223, 0xBE#8)] },
      rfl, by decide, rfl, by decide, by decide⟩,
    ⟨{ State.reset with agenda := [.read 0x800000#24 .four], qbuf := Mem.enum 0 [0#2, 1#2, 2#2, 3#2] },
      rfl, by decide, rfl, by decide⟩⟩

theorem witness_CmdWriteAcceptsCommand :
    (∃ s : State, s.agenda = .write 0x10#24 .four 0xFFFFFFFF#32 :: [] ∧ s.busy = false) ∧
    ∃ s : State, s.agenda = .write 0x10#24 .four 0#32 :: [] ∧ s.busy = true :=
  ⟨⟨{ State.reset with agenda := [.write 0x10#24 .four 0xFFFFFFFF#32] }, rfl, rfl⟩,
    ⟨{ pending .pack State.reset with agenda := [.write 0x10#24 .four 0#32] }, rfl, rfl⟩⟩

/-- A write of each register, idle. -/
theorem witness_RegistersReadBack :
    ∀ off ∈ [0x28#24, 0x2C#24, 0x30#24, 0x34#24, 0x38#24, 0x24#24, 0x0C#24],
      ∃ s : State, s.busy = false ∧ s.agenda = .write off .four 0xFFFFFFFF#32 :: [.rst] :=
  fun off _ => ⟨{ State.reset with agenda := [.write off .four 0xFFFFFFFF#32, .rst] }, rfl, rfl⟩
/-- BUSY is 0 after reset; the ends of the reserved offsets. -/
theorem witness_ReadOnlyRegistersIgnoreWrites :
    State.reset.busy = false ∧ (0x40 % 4 = 0 ∧ 0x40 ≤ 0x40 ∧ 0x40 ≤ 0xFC) ∧ (0xFC % 4 = 0 ∧ 0x40 ≤ 0xFC ∧ 0xFC ≤ 0xFC) := by
  decide
theorem witness_StatusWriteOneToClear : State.reset.busy = false := rfl

/-- The first word of PIX, the last half-word of KMEM and the last byte of QBUF. -/
theorem witness_MemoryBytesReadBack :
    ∀ x ∈ [(0x400000#24, Width.four, Region.pix), (0x10DE#24, .two, .kmem), (0xBFFFFF#24, .one, .qbuf)],
      accessRegion Config.params x.1.toNat x.2.1.bytes = some x.2.2 ∧ x.2.2 ≠ .csr ∧
      ∃ s : State, s.busy = false ∧ s.agenda = .write x.1 x.2.1 0xFFFFFFFF#32 :: [] := by
  intro x hx
  refine ⟨?_, ?_, { State.reset with agenda := [.write x.1 x.2.1 0xFFFFFFFF#32] }, rfl, rfl⟩ <;> revert x <;> decide

theorem witness_HardwareResetClearsRegisters : ∃ s : State, s.busy = true ∧ s.agenda = .rst :: [] :=
  ⟨{ pending .pack State.reset with agenda := [.rst] }, rfl, rfl⟩

/-- Idle; a pending NOP; a pending illegal word. -/
theorem witness_ResetKeepsMemories :
    (∃ s : State, s.agenda = .rst :: [] ∧ s.busy = false) ∧
    (∃ s : State, s.agenda = .rst :: [] ∧ s.pending = some 0#32 ∧
      ∀ i, decodeWord 0#32 = .ok i → i = .nop ∨ i = .softreset) ∧
    ∃ s : State, s.agenda = .rst :: [] ∧ s.pending = some 7#32 ∧
      ∀ i, decodeWord 7#32 = .ok i → i = .nop ∨ i = .softreset :=
  ⟨⟨{ State.reset with agenda := [.rst] }, rfl, rfl⟩,
    ⟨{ pending .nop State.reset with agenda := [.rst] }, rfl, rfl, fun i h => by cases i <;> revert h <;> decide⟩,
    ⟨{ State.reset.accept 7#32 with agenda := [.rst] }, rfl, rfl, fun i h => by cases i <;> revert h <;> decide⟩⟩

/-- A pending QUANTIZE and a pending PROCESS. -/
theorem witness_ResetAbandonsTheCommand :
    (∃ s : State, s.agenda = .rst :: [] ∧ s.busy = true ∧ s.pending = some (encode .quantize) ∧
      (validate Config.params .quantize s).1 = none ∧ 1 < s.N) ∧
    ∃ s : State, s.agenda = .rst :: [] ∧ s.busy = true ∧ s.pending = some (encode .process) ∧
      (validate Config.params .process s).1 = none ∧ 1 < s.N :=
  ⟨⟨{ pending .quantize (page 0#2 1#2 0#2 2#32 1#32 []) with agenda := [.rst] }, by decide⟩,
    ⟨{ pending .process (page 0#2 1#2 1#2 2#32 1#32 []) with agenda := [.rst] }, by decide⟩⟩

/-- The invariant holds of a state with a pending command, an event to come and memory written. -/
def witnessInv : State :=
  { pending .quantize (page 0#2 1#2 0#2 2#32 1#32 [7#8, 200#8]) with agenda := [.engine], qbuf := [(1, 3#2)] }

theorem witnessInv_inv : witnessInv.Inv Config.params where
  pending_iff_busy := rfl
  done_not_busy := by decide
  errcode_le := by decide
  success_context := by decide
  outlen_le := by decide
  pix_wf := by decide
  qbuf_wf := by decide
  out_wf := by decide
  kmem_wf := by decide
  tmem_wf := by decide

theorem witness_InvariantKeptByEveryStep : witnessInv.Inv Config.params ∧ ∃ t, step witnessInv = .next t :=
  ⟨witnessInv_inv, _, rfl⟩
/-- Another build. -/
theorem witness_InvariantKeptByEveryStep_build :
    ∃ t, ({ maxW := 800, maxH := 600, blockBase := 0x4000000 } : Params).wf = true ∧
      State.reset.Inv { maxW := 800, maxH := 600, blockBase := 0x4000000 } ∧
      stepOn { maxW := 800, maxH := 600, blockBase := 0x4000000 } State.reset = .next t :=
  ⟨_, by decide, by constructor <;> simp [State.reset, Mem.Below], rfl⟩
theorem witness_InvariantStatesStepOn : witnessInv.Inv Config.params := witnessInv_inv
theorem witness_BusyEndsAfterTheAgenda : witnessInv.Inv Config.params ∧ witnessInv.agenda.length + 1 = 2 :=
  ⟨witnessInv_inv, rfl⟩

/-- A step that ends with an error code; a PACK that truncates; an admitted write while BUSY. -/
theorem witness_StickyBitsSetAndCleared_set :
    (∃ s t : State, step s = .next t ∧ s.busy = true ∧ s.agenda = [] ∧ t.errcode ≠ 0#8) ∧
    (∃ s t : State, step s = .next t ∧ s.busy = true ∧ s.agenda = [] ∧ s.pending = some (encode .pack) ∧
      t.errcode = 0#8 ∧ s.N % (8 / s.BPP) ≠ 0) ∧
    ∃ s t : State, step s = .next t ∧ s.busy = true ∧ s.agenda = .write 0x400000#24 .one 1#32 :: [] ∧
      accessRegion Config.params (0x400000#24).toNat Width.one.bytes ≠ none :=
  ⟨⟨pending .quantize State.reset, _, rfl, rfl, rfl, by decide⟩,
    ⟨pending .pack (row 2#2 2#2 [0#2, 1#2, 2#2]), _, rfl, rfl, rfl, rfl, by decide, by decide⟩,
    ⟨{ pending .nop State.reset with agenda := [.write 0x400000#24 .one 1#32] }, _, rfl, rfl, rfl, by decide⟩⟩

/-- The three ways ERR, WARN and BUSYWR are cleared. -/
theorem witness_StickyBitsSetAndCleared :
    ∀ s ∈ [{ State.reset with err := true, warn := true, busywr := true, agenda := [.write 0x14#24 .four 0x1C#32] },
        { State.reset with err := true, warn := true, busywr := true, agenda := [.rst] },
        pending .softreset { State.reset with err := true, warn := true, busywr := true }],
      (nextOf (step s)).map (fun t => (s.err, s.warn, s.busywr, t.err, t.warn, t.busywr)) =
        some (true, true, true, false, false, false) := by decide

/-- BUSY set by a CMD write, cleared by a reset and by the engine. -/
theorem witness_BusyChangesOnlyByTheLifecycle :
    (nextOf (step { State.reset with agenda := [.write 0x10#24 .four 9#32] })).map (fun t => t.busy) = some true ∧
    (nextOf (step { pending .nop State.reset with agenda := [.rst] })).map (fun t => t.busy) = some false ∧
    (nextOf (step (pending .nop State.reset))).map (fun t => t.busy) = some false := by decide

/-- A step that changes PIX, one that changes KMEM, one that changes TMEM. -/
theorem witness_InputMemoriesWrittenOnlyByHost :
    (nextOf (step { State.reset with agenda := [.write 0x400000#24 .one 1#32] })).map (fun t => t.pix) =
      some [(0, 1#8)] ∧
    (nextOf (step { State.reset with agenda := [.write 0x1000#24 .one 1#32] })).map (fun t => t.kmem) =
      some [(0, 1#8)] ∧
    (nextOf (step { State.reset with agenda := [.write 0x20FF#24 .one 1#32] })).map (fun t => t.tmem) =
      some [(255, 1#8)] := by decide

/-- OUTLEN changed by a reset, by PACK, by PROCESS and by SOFTRESET. -/
theorem witness_OutlenChangesOnlyByPacking :
    (nextOf (step { State.reset with outlen := 5#32, agenda := [.rst] })).map (fun t => t.outlen) = some 0#32 ∧
    (nextOf (step (pending .pack (row 2#2 0#2 [0#2, 1#2, 2#2, 3#2])))).map (fun t => t.outlen) = some 1#32 ∧
    (nextOf (step (pending .process (page 0#2 2#2 0#2 4#32 1#32 [0#8, 1#8, 2#8, 3#8])))).map (fun t => t.outlen) =
      some 1#32 ∧
    (nextOf (step (pending .softreset { State.reset with outlen := 5#32 }))).map (fun t => t.outlen) = some 0#32 := by
  decide

end Sys2Proof.Tests
end

section
/-! SUPPORT. The invariant is kept: one rule per operation over the state, then per command, per event and per step
(spec/10_state.md R51, spec/70_reset_and_hazards.md R231). -/

namespace Sys2Proof.Machine

/-! ## Canonical form within a capacity, by the operations on memories -/

section
variable {α : Type} {m : Mem α} {n : Nat}

theorem Mem.overlay_wf_below (h : Mem.Wf m ∧ Mem.Below n m) {vs : List α} (hn : vs.length ≤ n) :
    Mem.Wf (Mem.overlay vs m) ∧ Mem.Below n (Mem.overlay vs m) :=
  ⟨Mem.overlay_wf vs h.1, Mem.overlay_below vs h.2 hn⟩

theorem Mem.unwrite_wf_below (h : Mem.Wf m ∧ Mem.Below n m) (k : Nat) :
    Mem.Wf (Mem.unwrite k m) ∧ Mem.Below n (Mem.unwrite k m) :=
  ⟨Mem.unwrite_wf k h.1, Mem.unwrite_below k h.2⟩

theorem Mem.writeRange_wf_below (h : Mem.Wf m ∧ Mem.Below n m) {i : Nat} {vs : List α} (hn : i + vs.length ≤ n) :
    Mem.Wf (Mem.writeRange m i vs) ∧ Mem.Below n (Mem.writeRange m i vs) :=
  ⟨Mem.writeRange_wf vs h.1 i, Mem.writeRange_below vs h.2 hn⟩

end

section
variable {P : Params} {s t : State}

/-! ## The invariant, by the updates of the state -/

theorem State.Inv.withFresh (h : s.Inv P) (n : Nat) : (s.withFresh n).Inv P := { h with }

theorem State.Inv.withReply (h : s.Inv P) (r : Reply) : (s.withReply r).Inv P := { h with }

theorem State.Inv.withAgenda (h : s.Inv P) (l : List Event) : (s.withAgenda l).Inv P := { h with }

theorem State.Inv.withQbuf (h : s.Inv P) {m : Mem QVal} (hm : Mem.Wf m ∧ Mem.Below P.maxPix m) :
    (s.withQbuf m).Inv P := { h with qbuf_wf := hm }

theorem State.Inv.withOut (h : s.Inv P) {m : Mem Byte} (hm : Mem.Wf m ∧ Mem.Below P.outCap m) :
    (s.withOut m).Inv P := { h with out_wf := hm }

theorem State.Inv.withOutlen (h : s.Inv P) {v : Word} (hv : v.toNat ≤ P.outCap) : (s.withOutlen v).Inv P :=
  { h with outlen_le := hv }

theorem State.Inv.clearConfig (h : s.Inv P) : s.clearConfig.Inv P := { h with outlen_le := Nat.zero_le _ }

theorem State.Inv.clearRegisters (h : s.Inv P) : s.clearRegisters.Inv P :=
  { h with
    pending_iff_busy := rfl
    done_not_busy := fun _ => rfl
    errcode_le := Nat.zero_le _
    success_context := fun _ => ⟨rfl, rfl⟩
    outlen_le := Nat.zero_le _ }

theorem State.Inv.accept (h : s.Inv P) (w : Word) : (s.accept w).Inv P :=
  { h with
    pending_iff_busy := rfl
    done_not_busy := fun _ => rfl }

/-- A completion empties PENDING as it clears BUSY; the codes of R190 keep the rest (R172). -/
theorem State.Inv.complete (h : s.Inv P) {code info : Byte} {arg : Word} (hc : code.toNat ≤ 9)
    (hs : code = 0#8 → info = 0#8 ∧ arg = 0#32) (warn : Bool) : (s.complete code info arg warn).Inv P :=
  { h with
    pending_iff_busy := rfl
    done_not_busy := fun hb => absurd hb Bool.false_ne_true
    errcode_le := hc
    success_context := hs }

theorem State.Inv.completeOk (h : s.Inv P) (warn : Bool) : (s.completeOk warn).Inv P :=
  h.complete (Nat.zero_le _) (fun _ => ⟨rfl, rfl⟩) warn

theorem State.Inv.raise (h : s.Inv P) (e : CmdError) : (s.raise e).Inv P :=
  h.complete e.code.code_le (fun h0 => absurd h0 e.code.code_ne_zero) false

/-! ## The commands -/

/-- What the commands write fits the buffers: the pixels in QBUF, the packed record in OUT (R15, R156). -/
def State.ResultFits (P : Params) (s : State) : Prop := s.N ≤ P.maxPix ∧ s.packedBytes ≤ P.outCap

/-- The checks of a command that processes pixels let through only results that fit. -/
theorem resultFits_of_validate (hP : P.wf = true) {i : Instr} {n : Nat} (hv : validate P i s = (none, n))
    (hi : i = .diffuse ∨ i = .ordered ∨ i = .quantize ∨ i = .pack ∨ i = .process) : s.ResultFits P := by
  obtain ⟨hdepth, hsize⟩ := legal_of_validate hv hi
  obtain ⟨-, -, -, hpix, -⟩ := Params.wf_bounds hP
  exact ⟨(Nat.mul_le_mul hsize.2.1 hsize.2.2.2).trans hpix, packedBytes_le P s hP hdepth hsize⟩

theorem State.Inv.quantizeBody (h : s.Inv P) (hN : s.N ≤ P.maxPix) : s.quantizeBody.Inv P :=
  (h.withFresh _).withQbuf (Mem.overlay_wf_below h.qbuf_wf (by simpa using hN))

theorem State.Inv.diffuseBody (h : s.Inv P) (hN : s.N ≤ P.maxPix) : (s.diffuseBody P).Inv P :=
  (h.withFresh _).withQbuf (Mem.overlay_wf_below h.qbuf_wf (by simpa using hN))

theorem State.Inv.orderedBody (h : s.Inv P) (hN : s.N ≤ P.maxPix) : (s.orderedBody P).Inv P :=
  (h.withFresh _).withQbuf (Mem.overlay_wf_below h.qbuf_wf (by simpa using hN))

theorem State.Inv.convert (h : s.Inv P) (hN : s.N ≤ P.maxPix) : (s.convert P).Inv P := by
  unfold State.convert
  split
  · exact h.quantizeBody hN
  · exact h.diffuseBody hN
  · exact h.orderedBody hN
  · exact h

/-- A conversion leaves the size of the record as it was: it writes no control register. -/
@[simp] theorem State.convert_packedBytes (P : Params) (s : State) : (s.convert P).packedBytes = s.packedBytes := by
  rw [convert_frame]; rfl

/-- The packing keeps the invariant where the record fits OUT: OUTLEN is then at most the capacity too. -/
theorem State.Inv.packCore (h : s.Inv P) (hb : s.packedBytes ≤ P.outCap) : s.packCore.Inv P := by
  have hlen : (BitVec.ofNat 32 s.packedBytes).toNat ≤ P.outCap := by
    rw [BitVec.toNat_ofNat]
    exact (Nat.mod_le _ _).trans hb
  have hout := Mem.overlay_wf_below h.out_wf (vs := packedRecord s) (by simpa using hb)
  exact ((h.withFresh _).withOut hout).withOutlen hlen

/-- The work of each command keeps the invariant, where what it writes fits. -/
theorem State.Inv.commandWork (h : s.Inv P) {i : Instr}
    (hfits : i = .diffuse ∨ i = .ordered ∨ i = .quantize ∨ i = .pack ∨ i = .process → s.ResultFits P) :
    (commandWork P i s).Inv P := by
  cases i with
  | nop => exact h.completeOk _
  | diffuse =>
    obtain ⟨hN, -⟩ := hfits (by decide)
    exact (h.diffuseBody hN).completeOk _
  | ordered =>
    obtain ⟨hN, -⟩ := hfits (by decide)
    exact (h.orderedBody hN).completeOk _
  | quantize =>
    obtain ⟨hN, -⟩ := hfits (by decide)
    exact (h.quantizeBody hN).completeOk _
  | pack =>
    obtain ⟨-, hb⟩ := hfits (by decide)
    exact (h.packCore hb).completeOk _
  | process =>
    obtain ⟨hN, hb⟩ := hfits (by decide)
    exact ((h.convert hN).packCore (by simpa using hb)).completeOk _
  | softreset => exact h.clearConfig.completeOk _

/-- Every command of a well-formed build keeps the invariant: its checks raise an error, or they pass and what its work
writes fits. -/
theorem State.Inv.commandOn (hP : P.wf = true) (h : s.Inv P) {i : Instr} (hc : commandOn P i s = .next t) :
    t.Inv P := by
  rcases commandOn_cases hc with ⟨e, n, -, rfl⟩ | ⟨n, hv, rfl⟩
  · exact (h.withFresh n).raise e
  · exact (h.withFresh n).commandWork (fun hi => show s.ResultFits P from resultFits_of_validate hP hv hi)

/-- The engine's turn: nothing while idle, a command, or the completion of an illegal word (R171, R173). -/
theorem State.Inv.engineTurn (hP : P.wf = true) (h : s.Inv P)
    (ht : engineTurn (Machine.commandOn P) s = .next t) : t.Inv P := by
  rcases engineTurn_cases ht with ⟨-, rfl⟩ | ⟨w, i, -, -, -, hc⟩ | ⟨w, e, -, -, -, rfl⟩
  · exact h
  · exact h.commandOn hP hc
  · exact h.raise _

/-! ## Host accesses -/

theorem State.Inv.busRead (h : s.Inv P) (off n : Nat) : (s.busRead P off n).Inv P := by
  rw [busRead_frame]
  exact { h with }

/-- A host write of a register, which only an idle block takes (R70). -/
theorem State.Inv.csrWrite (h : s.Inv P) (hidle : s.busy = false) (v : Word) (c : Csr) : (s.csrWrite v c).Inv P := by
  cases c with
  | cmd => exact h.accept v
  | status => exact { h with done_not_busy := fun hb => absurd (hidle.symm.trans hb) Bool.false_ne_true }
  | id | caps | maxdim | errcode | errinfo | errarg | outlen => exact h
  | ctrl | cfg | width | height | krows | kcols | tsize => exact { h with }

theorem State.Inv.csrRegionWrite (h : s.Inv P) (hidle : s.busy = false) (off : Nat) (v : Word) :
    (csrRegionWrite s off v).Inv P := by
  unfold Machine.csrRegionWrite
  split
  · exact h.csrWrite hidle v _
  · exact h

/-- A host write of a local memory, within the region's size (R66). -/
theorem State.Inv.writeRegion (h : s.Inv P) {i : Nat} {bs : List Byte} {r : Region}
    (hr : i + bs.length ≤ regionSize P r) : (s.writeRegion i bs r).Inv P := by
  cases r with
  | csr => exact h
  | kmem => exact { h with kmem_wf := Mem.writeRange_wf_below h.kmem_wf hr }
  | tmem => exact { h with tmem_wf := Mem.writeRange_wf_below h.tmem_wf hr }
  | pix => exact { h with pix_wf := Mem.writeRange_wf_below h.pix_wf hr }
  | qbuf => exact { h with qbuf_wf := Mem.writeRange_wf_below h.qbuf_wf (by simpa [regionSize] using hr) }
  | out => exact { h with out_wf := Mem.writeRange_wf_below h.out_wf hr }

theorem State.Inv.busWrite (h : s.Inv P) (off n : Nat) (v : Word) : (s.busWrite P off n v).Inv P := by
  rcases busWrite_cases P off n v s with ⟨-, ht⟩ | ⟨-, -, ht⟩ | ⟨-, hidle, ht⟩ | ⟨r, hr, -, -, ht⟩ <;> rw [ht]
  · exact h.withReply _
  · exact { h with }
  · exact (h.csrRegionWrite hidle off v).withReply _
  · obtain ⟨-, hlo, hhi, hend, -, -⟩ := accessRegion_some hr
    exact (h.writeRegion (by rw [bytesOf_length]; omega)).withReply _

/-! ## Hardware reset -/

/-- Abandoning a command only takes cells away (R222). -/
theorem State.Inv.abandon (h : s.Inv P) (i : Instr) : (s.abandon P i).Inv P := by
  unfold State.abandon
  split
  case h_1 n _ => exact h.withFresh n
  case h_2 n _ =>
    have hn := h.withFresh n
    have hqbuf := hn.withQbuf (Mem.unwrite_wf_below h.qbuf_wf s.N)
    have hout := Mem.unwrite_wf_below h.out_wf s.packedBytes
    cases i with
    | nop | softreset => exact hn
    | diffuse | ordered | quantize => exact hqbuf
    | pack => exact hn.withOut hout
    | process => exact hqbuf.withOut hout

theorem State.Inv.hardReset (h : s.Inv P) : (s.hardReset P).Inv P := by
  rcases hardReset_cases P s with ht | ⟨w, i, -, -, -, ht⟩ <;> rw [ht]
  · exact h.clearRegisters
  · exact (h.abandon i).clearRegisters

/-! ## One step -/

/-- One step of a well-formed build keeps the invariant, whichever event it takes. -/
theorem State.Inv.stepOn (hP : P.wf = true) (h : s.Inv P) (ht : stepOn P s = .next t) : t.Inv P := by
  rcases turn_cases ht with ⟨-, he⟩ | ⟨off, n, rest, -, rfl⟩ | ⟨off, n, v, rest, -, rfl⟩ | ⟨rest, -, rfl⟩
  · exact (h.withAgenda _).engineTurn hP he
  · exact (h.withAgenda rest).busRead _ _
  · exact (h.withAgenda rest).busWrite _ _ v
  · exact (h.withAgenda rest).hardReset

end

/-- Settles O54: the default build is one of the well-formed builds, and each of these keeps the invariant event by
event. -/
theorem invariantKeptByEveryStep : Obligations.InvariantKeptByEveryStep := by
  unfold Obligations.InvariantKeptByEveryStep
  exact ⟨fun s t h ht => h.stepOn Config.params_wf ((stepOn_params s).trans ht),
    fun P s t hP h ht => h.stepOn hP ht⟩

end Sys2Proof.Machine
end

section
/-! SUPPORT. The control registers through the host window: which accesses reach one, what a read of it answers and what
a write of it does (spec/10_state.md R23 to R44; spec/20_memory.md R63, R66). -/

namespace Sys2Proof.Machine

/-! ## The register map -/

@[simp] theorem csrAt_csrOffset (c : Csr) : csrAt (csrOffset c) = some c := by cases c <;> rfl

/-- A register lies at a word boundary, below the reserved offsets. -/
theorem csrOffset_bounds (c : Csr) : csrOffset c % 4 = 0 ∧ csrOffset c < 0x40 := by cases c <;> decide

theorem csrAt_reserved {off : Nat} (h : 0x40 ≤ off) : csrAt off = none := by
  cases hc : csrAt off with
  | none => rfl
  | some c =>
    have hoff := csrAt_some hc
    have := csrOffset_bounds c
    omega

/-- A write in the CSR region is ignored, or is the write of the register at that offset. -/
theorem csrRegionWrite_cases (s : State) (off : Nat) (v : Word) :
    csrRegionWrite s off v = s ∨ ∃ c, off = csrOffset c ∧ csrRegionWrite s off v = s.csrWrite v c := by
  unfold csrRegionWrite
  split
  · next c hc => exact .inr ⟨c, (csrAt_some hc).symm, rfl⟩
  · exact .inl rfl

section
variable {P : Params} (hP : P.wf = true)
include hP

/-- Every aligned word of the CSR region is admitted. -/
theorem accessRegion_csr {off : Nat} (halign : off % 4 = 0) (hlt : off < 0x100) :
    accessRegion P off 4 = some .csr := by
  have hin : ∀ a, a < 0x100 → inRegion P a .csr = true := fun a ha =>
    inRegion_iff.2 ⟨Nat.zero_le _, by rw [regionBase, regionSize]; omega⟩
  have hat : regionAt P off = some .csr := (regionAt_iff hP).2 (hin off hlt)
  have hend : inRegion P (off + 3) .csr = true := hin _ (by omega)
  unfold accessRegion
  simp [hat, halign, hend]

theorem accessRegion_csrOffset (c : Csr) : accessRegion P (csrOffset c) 4 = some .csr := by
  obtain ⟨halign, hlt⟩ := csrOffset_bounds c
  exact accessRegion_csr hP halign (by omega)

/-! ## Reads and writes of a register -/

/-- A read of a register answers its value and changes nothing else, BUSY or not. -/
theorem busRead_csrOffset (s : State) (c : Csr) :
    s.busRead P (csrOffset c) 4 = s.withReply (.data (s.csrRead P c)) := by
  rw [busRead_csr (accessRegion_csrOffset hP c), csrRegionRead, csrAt_csrOffset]

theorem busRead_reserved (s : State) {off : Nat} (halign : off % 4 = 0) (hlo : 0x40 ≤ off) (hhi : off < 0x100) :
    s.busRead P off 4 = s.withReply (.data 0#32) := by
  rw [busRead_csr (accessRegion_csr hP halign hhi), csrRegionRead, csrAt_reserved hlo]

/-- An admitted write in the CSR region while BUSY is 0 (R63). -/
theorem busWrite_csr_idle {s : State} (hidle : s.busy = false) {off : Nat} (halign : off % 4 = 0) (hlt : off < 0x100)
    (v : Word) : s.busWrite P off 4 v = (csrRegionWrite s off v).withReply .ok := by
  have hcsr := accessRegion_csr hP halign hlt
  rcases busWrite_cases P off 4 v s with ⟨hr, -⟩ | ⟨-, hbusy, -⟩ | ⟨-, -, ht⟩ | ⟨r, hr, hne, -, -⟩
  · rw [hcsr] at hr; cases hr
  · rw [hidle] at hbusy; cases hbusy
  · exact ht
  · rw [hcsr] at hr; cases hr; exact absurd rfl hne

theorem busWrite_csrOffset {s : State} (hidle : s.busy = false) (c : Csr) (v : Word) :
    s.busWrite P (csrOffset c) 4 v = (s.csrWrite v c).withReply .ok := by
  obtain ⟨halign, hlt⟩ := csrOffset_bounds c
  rw [busWrite_csr_idle hP hidle halign (by omega), csrRegionWrite, csrAt_csrOffset]

theorem busWrite_reserved {s : State} (hidle : s.busy = false) {off : Nat} (halign : off % 4 = 0) (hlo : 0x40 ≤ off)
    (hhi : off < 0x100) (v : Word) : s.busWrite P off 4 v = s.withReply .ok := by
  rw [busWrite_csr_idle hP hidle halign hhi, csrRegionWrite, csrAt_reserved hlo]

/-- What a register reads after a write of it while BUSY is 0. -/
theorem busRead_busWrite_csrOffset {s : State} (hidle : s.busy = false) (c : Csr) (v : Word) :
    ((s.busWrite P (csrOffset c) 4 v).busRead P (csrOffset c) 4).reply =
      some (.data (((s.csrWrite v c).withReply .ok).csrRead P c)) := by
  rw [busWrite_csrOffset hP hidle, busRead_csrOffset hP]; rfl

end

/-- The step of a register write while BUSY is 0. -/
theorem step_of_csrWrite {s : State} (hidle : s.busy = false) (c : Csr) {off : Offset} (hoff : off.toNat = csrOffset c)
    {v : Word} {rest : List Event} (h : s.agenda = .write off .four v :: rest) :
    step s = .next (((s.withAgenda rest).csrWrite v c).withReply .ok) := by
  have hidle' : (s.withAgenda rest).busy = false := hidle
  rw [step_of_write h, hoff, Width.bytes, busWrite_csrOffset Config.params_wf hidle']

/-! ## The fields of a register word -/

/-- STATUS as a number: one bit a flag (R27). -/
theorem State.statusWord_eq (s : State) : s.statusWord = BitVec.ofNat 32
    (s.busy.toNat + 2 * s.done.toNat + 4 * s.err.toNat + 8 * s.warn.toNat + 16 * s.busywr.toNat) := by
  unfold State.statusWord
  generalize s.busy = b0, s.done = b1, s.err = b2, s.warn = b3, s.busywr = b4
  revert b0 b1 b2 b3 b4
  decide

/-- CTRL as a number (R32). -/
theorem State.ctrlWord_eq (s : State) : s.ctrlWord = BitVec.ofNat 32 s.irqen.toNat := by
  unfold State.ctrlWord
  cases s.irqen <;> rfl

/-- CFG as a number: its four fields at bits 0, 4, 8 and 12 (R37). -/
theorem State.cfgWord_eq (s : State) : s.cfgWord = BitVec.ofNat 32
    (s.mode.toNat + 16 * s.bpp.toNat + 256 * s.padmode.toNat + 4096 * s.edtie.toNat) := by
  unfold State.cfgWord
  generalize s.mode = m, s.bpp = b, s.padmode = p, s.edtie = e
  revert m b p e
  decide

/-- CFG keeps the written bits of its fields; the reserved bits read 0 (R37, R42). -/
theorem State.writeCfg_cfgWord (s : State) (v : Word) : (s.writeCfg v).cfgWord = v &&& 0x1333#32 := by
  apply BitVec.eq_of_getLsbD_eq
  intro i hi
  simp only [State.cfgWord, State.writeCfg_mode, State.writeCfg_bpp, State.writeCfg_padmode, State.writeCfg_edtie,
    BitVec.getLsbD_append, BitVec.getLsbD_extractLsb', BitVec.getLsbD_and]
  interval_cases i <;> simp

/-- CTRL keeps bit 0 of what is written (R32, R42). -/
theorem State.ctrlWord_of_irqen {s : State} {v : Word} (h : s.irqen = v.getLsbD 0) : s.ctrlWord = v &&& 0x1#32 := by
  apply BitVec.eq_of_getLsbD_eq
  intro i hi
  rw [State.ctrlWord, h, BitVec.getLsbD_append, BitVec.getLsbD_and]
  interval_cases i <;> simp

/-- A STATUS write clears the bits 4:1 that are written with 1 (R27 to R31). -/
theorem State.clearStatus_statusWord (s : State) (v : Word) :
    (s.clearStatus v).statusWord = s.statusWord &&& ~~~(v &&& 0x1E#32) := by
  apply BitVec.eq_of_getLsbD_eq
  intro i hi
  simp only [State.statusWord, State.clearStatus_busy, State.clearStatus_done, State.clearStatus_err,
    State.clearStatus_warn, State.clearStatus_busywr, BitVec.getLsbD_append, BitVec.getLsbD_and, BitVec.getLsbD_not]
  interval_cases i <;> simp

end Sys2Proof.Machine
end

section
/-! The claims about the control registers. -/

namespace Sys2Proof.Machine

/-- Settles O44: a read of a register answers its value, and these three are constants of the build. -/
theorem identificationConstants : Obligations.IdentificationConstants := by
  intro s
  have hread := fun c => congrArg State.reply (busRead_csrOffset Config.params_wf s c)
  exact ⟨hread .id, hread .caps, hread .maxdim⟩

/-- Settles O45: every read-back and every step is that of the one register the offset names. -/
theorem registersReadBack : Obligations.RegistersReadBack := by
  intro s v hidle
  have hback := fun c => busRead_busWrite_csrOffset Config.params_wf hidle c v
  refine ⟨⟨?_, ?_, ?_⟩, fun rest => ?_⟩
  · rintro off (rfl | rfl | rfl | rfl | rfl)
    · exact hback .width
    · exact hback .height
    · exact hback .krows
    · exact hback .kcols
    · exact hback .tsize
  · rw [← s.writeCfg_cfgWord v]
    exact hback .cfg
  · rw [← State.ctrlWord_of_irqen (s := s.csrWrite v .ctrl) rfl]
    exact hback .ctrl
  · exact ⟨step_of_csrWrite hidle .width rfl, step_of_csrWrite hidle .height rfl, step_of_csrWrite hidle .krows rfl,
      step_of_csrWrite hidle .kcols rfl, step_of_csrWrite hidle .tsize rfl, step_of_csrWrite hidle .cfg rfl,
      step_of_csrWrite hidle .ctrl rfl⟩

/-- Settles O46: a read-only register ignores the write by its write rule, a reserved offset has no register. -/
theorem readOnlyRegistersIgnoreWrites : Obligations.ReadOnlyRegistersIgnoreWrites := by
  intro s v off hidle hoff
  have hwrite := fun c => busWrite_csrOffset Config.params_wf hidle c v
  refine ⟨?_, fun ⟨halign, hlo, hhi⟩ => ?_, congrArg State.reply (busRead_csrOffset Config.params_wf s .cmd)⟩
  · rcases hoff with rfl | rfl | rfl | rfl | rfl | rfl | rfl | ⟨halign, hlo, hhi⟩
    · exact hwrite .id
    · exact hwrite .caps
    · exact hwrite .maxdim
    · exact hwrite .errcode
    · exact hwrite .errinfo
    · exact hwrite .errarg
    · exact hwrite .outlen
    · exact busWrite_reserved Config.params_wf hidle halign hlo (by omega) v
  · rw [busRead_reserved Config.params_wf s halign hlo (by omega)]; rfl

/-- Settles O47: the write is `clearStatus`, which clears bits of the word STATUS reads as. -/
theorem statusWriteOneToClear : Obligations.StatusWriteOneToClear := by
  intro s v hidle
  exact ⟨_, busWrite_csrOffset Config.params_wf hidle .status v, s.clearStatus_statusWord v, rfl⟩

end Sys2Proof.Machine
end

section
/-! SUPPORT. What a read of a local memory answers where its cells are written (spec/20_memory.md R64 to R69, R71,
R73). -/

namespace Sys2Proof.Machine

/-- Reading written cells through a map of their values (the zero-extension of QBUF) draws no free value. -/
theorem Mem.readRange_map_written {α β : Type} {free : Nat → α} {m : Mem α} {i n : Nat} (f : α → β) (bs : List β)
    (h : ∀ j, (hj : j < bs.length) → (Mem.cell m (i + j)).map f = some bs[j]) :
    (Mem.readRange free m bs.length i n).1.map f = bs ∧ (Mem.readRange free m bs.length i n).2 = n := by
  induction bs generalizing i with
  | nil => exact ⟨rfl, rfl⟩
  | cons b bs ih =>
    obtain ⟨a, ha, rfl⟩ := Option.map_eq_some_iff.1 (h 0 (by simp))
    rw [Nat.add_zero] at ha
    have hrest := ih (i := i + 1) (fun j hj => by
      rw [show i + 1 + j = i + (j + 1) by omega, h (j + 1) (by simpa using hj), List.getElem_cons_succ])
    simpa [Mem.readRange, Mem.read_of_cell ha] using hrest

/-- The byte that cell `i` of a local memory shows the host: nothing where the cell is unwritten, and nothing in the CSR
region. -/
def State.regionCell (s : State) (i : Nat) : Region → Option Byte
  | .csr => none
  | .kmem => Mem.cell s.kmem i
  | .tmem => Mem.cell s.tmem i
  | .pix => Mem.cell s.pix i
  | .qbuf => (Mem.cell s.qbuf i).map (fun q => q.setWidth 8)
  | .out => Mem.cell s.out i

theorem State.byteAt_of_regionAt {P : Params} {off : Nat} {r : Region} (h : regionAt P off = some r) (s : State) :
    s.byteAt P off = s.regionCell (off - regionBase r) r := by
  unfold State.byteAt
  rw [h]
  cases r <;> rfl

/-- The bytes of written cells are read as they are; of QBUF and OUT, while BUSY is 0 (R71). -/
theorem regionBytes_written {s : State} {i : Nat} {r : Region} (hr : r ≠ .csr)
    (hbusy : s.busy = true → r ≠ .qbuf ∧ r ≠ .out) {bs : List Byte}
    (h : ∀ j, (hj : j < bs.length) → s.regionCell (i + j) r = some bs[j]) :
    regionBytes s bs.length i r = (bs, s.fresh) := by
  have hidle : r = .qbuf ∨ r = .out → s.busy = false := fun hq => by
    by_contra hb
    obtain ⟨hnq, hno⟩ := hbusy (by simpa using hb)
    exact hq.elim hnq hno
  cases r with
  | csr => exact absurd rfl hr
  | kmem | tmem | pix => exact Mem.readRange_written bs h
  | qbuf =>
    obtain ⟨hval, hfresh⟩ := Mem.readRange_map_written (free := Config.freeQ) (n := s.fresh) _ bs h
    simp only [regionBytes, hidle (.inl rfl), Bool.false_eq_true, if_false, hval, hfresh]
  | out =>
    simp only [regionBytes, hidle (.inr rfl), Bool.false_eq_true, if_false]
    exact Mem.readRange_written bs h

/-- An admitted read of a local memory answers the number its bytes make. -/
theorem busRead_memory {P : Params} {off n : Nat} {r : Region} (h : accessRegion P off n = some r) (hr : r ≠ .csr)
    (s : State) :
    s.busRead P off n = (s.withFresh (regionBytes s n (off - regionBase r) r).2).withReply
      (.data (BitVec.ofNat 32 (natOfBytes (regionBytes s n (off - regionBase r) r).1))) := by
  unfold State.busRead
  rw [h]
  cases r with
  | csr => exact absurd rfl hr
  | kmem | tmem | pix | qbuf | out => rfl

/-- A read of written cells answers their value, and draws nothing. -/
theorem busRead_written {P : Params} (hP : P.wf = true) {s : State} {off : Nat} {n : Width} {r : Region} {v : Word}
    (h : accessRegion P off n.bytes = some r) (hr : r ≠ .csr) (hbusy : s.busy = true → r ≠ .qbuf ∧ r ≠ .out)
    (hv : v.toNat < 2 ^ (8 * n.bytes))
    (hbytes : ∀ j < n.bytes, s.byteAt P (off + j) = some (v.extractLsb' (8 * j) 8)) :
    s.busRead P off n.bytes = s.withReply (.data v) := by
  obtain ⟨-, hlo, -, hend, -, -⟩ := accessRegion_some h
  have hcell : ∀ j, (hj : j < (bytesOf n.bytes v).length) →
      s.regionCell (off - regionBase r + j) r = some (bytesOf n.bytes v)[j] := by
    intro j hj
    have hjn : j < n.bytes := by simpa using hj
    have hat : regionAt P (off + j) = some r := (regionAt_iff hP).2 (inRegion_iff.2 ⟨by omega, by omega⟩)
    have hbyte := hbytes j hjn
    rw [State.byteAt_of_regionAt hat, show off + j - regionBase r = off - regionBase r + j by omega] at hbyte
    rw [hbyte]
    simp [bytesOf]
  have hread := regionBytes_written hr hbusy hcell
  rw [bytesOf_length] at hread
  rw [busRead_memory h hr, hread, natOfBytes_bytesOf n v hv, BitVec.ofNat_toNat, BitVec.setWidth_eq]
  rfl

end Sys2Proof.Machine
end

section
/-! The claim about host reads. -/

namespace Sys2Proof.Machine

/-- A read of the register at an offset of the window answers its value, and draws nothing. -/
theorem busRead_answers {P : Params} (hP : P.wf = true) {s : State} {off : Offset} {v : Word} (c : Csr)
    (hoff : off.toNat = csrOffset c) (hv : s.csrRead P c = v) :
    (s.busRead P off.toNat 4).reply = some (.data v) ∧ (s.busRead P off.toNat 4).fresh = s.fresh := by
  rw [hoff, busRead_csrOffset hP, hv]
  exact ⟨rfl, rfl⟩

/-- Settles O42: the frame of a read, then the register the offset names, then the written bytes of a memory. -/
theorem readsAnswerAndHaveNoSideEffects : Obligations.ReadsAnswerAndHaveNoSideEffects := by
  intro s off n rest ha
  refine ⟨_, step_of_read ha, busRead_frame _ _ _ (s.withAgenda rest), ?_, fun r v hr hne hbusy hv hbytes => ?_⟩
  · rintro rfl
    have hanswers := fun c v => busRead_answers Config.params_wf (s := s.withAgenda rest) (off := off) (v := v) c
    refine ⟨?_, ?_, ?_, ?_, ?_, ?_, ?_, ?_, ?_, ?_, ?_, ?_⟩ <;> rintro rfl
    · exact hanswers .status _ rfl (s.withAgenda rest).statusWord_eq
    · exact hanswers .errcode _ rfl (BitVec.ofNat_toNat 32 s.errcode).symm
    · exact hanswers .errinfo _ rfl (BitVec.ofNat_toNat 32 s.errinfo).symm
    · exact hanswers .errarg _ rfl rfl
    · exact hanswers .outlen _ rfl rfl
    · exact hanswers .ctrl _ rfl (s.withAgenda rest).ctrlWord_eq
    · exact hanswers .cfg _ rfl (s.withAgenda rest).cfgWord_eq
    · exact hanswers .width _ rfl rfl
    · exact hanswers .height _ rfl rfl
    · exact hanswers .krows _ rfl rfl
    · exact hanswers .kcols _ rfl rfl
    · exact hanswers .tsize _ rfl rfl
  · rw [busRead_written Config.params_wf (s := s.withAgenda rest) hr hne hbusy hv hbytes]
    exact ⟨rfl, rfl⟩

end Sys2Proof.Machine
end

section
/-! SUPPORT. What each event leaves unchanged: the engine's step, a host access, a hardware reset (spec/10_state.md R27 to
R31, R41, R45 to R49; spec/70_reset_and_hazards.md R231). -/

namespace Sys2Proof.Machine

/-! ## The engine's step -/

/-- A word with no reserved bit set is its OP (R90). -/
theorem toNat_of_wordRsv {w : Word} (h : wordRsv w = 0#28) : w.toNat = (wordOp w).toNat := by
  have hrsv := congrArg BitVec.toNat h
  simp only [wordRsv, BitVec.extractLsb'_toNat, BitVec.toNat_ofNat, Nat.shiftRight_eq_div_pow] at hrsv
  simp only [wordOp, BitVec.extractLsb'_toNat, Nat.shiftRight_eq_div_pow]
  have := w.isLt
  omega

/-- The word of a command is the only one that decodes to it (R92, R93). -/
theorem eq_encode_of_decodeWord {w : Word} {i : Instr} (h : decodeWord w = .ok i) : w = encode i := by
  unfold decodeWord at h
  split at h
  · cases h
  · next hrsv =>
    have hop := toNat_of_wordRsv (not_not.1 hrsv)
    apply BitVec.eq_of_toNat_eq
    split at h <;> cases h <;> rw [hop] <;> assumption

theorem decodeWord_encode (i : Instr) : decodeWord (encode i) = .ok i := by cases i <;> rfl

section
variable {s t : State}

/-- While BUSY is 1 the engine runs the command in PENDING (R171). -/
theorem engineStep_of_pending {i : Instr} (hb : s.busy = true) (hp : s.pending = some (encode i)) :
    engineStep s = exec i s := by
  simp [engineStep, engineTurn, hb, hp, decodeWord_encode]

/-- The step of a busy engine: a command of R92, or the completion of an illegal word. -/
theorem engineStep_busy (h : engineStep s = .next t) (hb : s.busy = true) :
    (∃ i, s.pending = some (encode i) ∧ exec i s = .next t) ∨ ∃ w, t = s.illegalCommand w := by
  rcases engineStep_cases h with ⟨hidle, -⟩ | ⟨w, i, -, hp, hd, he⟩ | ⟨w, e, -, -, -, rfl⟩
  · rw [hidle] at hb; cases hb
  · exact .inl ⟨i, eq_encode_of_decodeWord hd ▸ hp, he⟩
  · exact .inr ⟨w, rfl⟩

theorem engineStep_idle (h : engineStep s = .next t) (hidle : s.busy = false) : t = s := by
  rcases engineStep_cases h with ⟨-, rfl⟩ | ⟨w, i, hb, -⟩ | ⟨w, e, hb, -⟩
  · rfl
  all_goals rw [hidle] at hb; cases hb

/-- The engine's step completes what it runs (R172). -/
theorem engineStep_completes (h : engineStep s = .next t) (hb : s.busy = true) : t.busy = false ∧ t.done = true := by
  rcases engineStep_busy h hb with ⟨i, -, he⟩ | ⟨w, rfl⟩
  · obtain ⟨-, -, -, -, -, hbusy, hdone, -, -⟩ := exec_frame he
    exact ⟨hbusy, hdone⟩
  · exact ⟨rfl, rfl⟩

/-- The invariant puts a word in PENDING while BUSY is 1, so the engine has a step (R51). -/
theorem engineStep_of_inv (h : s.Inv Config.params) : ∃ t, engineStep s = .next t := by
  have hp := h.pending_iff_busy
  unfold engineStep engineTurn
  split
  · exact ⟨_, rfl⟩
  · next hb hn => rw [hn, hb] at hp; cases hp
  · split
    · next i _ => exact ⟨_, exec_eq i s⟩
    · exact ⟨_, rfl⟩

end

/-! ## IRQEN -/

/-- A command leaves IRQEN as it was, but for SOFTRESET (R180). -/
theorem exec_irqen {i : Instr} {s t : State} (h : exec i s = .next t) :
    t.irqen = if i = .softreset then false else s.irqen := by
  rcases exec_cases h with ⟨e, n, hv, rfl⟩ | ⟨n, hv, rfl⟩
  · cases i with
    | softreset => simp [validate, checkSequence] at hv
    | _ => rfl
  · have hconv : ((s.withFresh n).convert Config.params).irqen = s.irqen := by rw [convert_frame]; rfl
    cases i <;>
      simp [commandWork, State.diffuseBody, State.orderedBody, State.quantizeBody, State.packCore, hconv]

/-! ## The sticky bits -/

/-- The sticky status bits. -/
inductive Sticky where
  | err
  | warn
  | busywr

/-- The bit of STATUS that holds a sticky bit (R27). -/
def Sticky.bit : Sticky → Nat
  | .err => 2
  | .warn => 3
  | .busywr => 4

/-- The value of a sticky bit. -/
def State.sticky (s : State) : Sticky → Bool
  | .err => s.err
  | .warn => s.warn
  | .busywr => s.busywr

/-- A sticky bit is the bit of STATUS it names. -/
theorem State.statusWord_getLsbD_bit (s : State) (b : Sticky) : s.statusWord.getLsbD b.bit = s.sticky b := by
  cases b <;> simp only [State.statusWord, Sticky.bit, State.sticky, BitVec.getLsbD_append] <;> simp

theorem State.clearStatus_sticky (s : State) (v : Word) (b : Sticky) :
    (s.clearStatus v).sticky b = (s.sticky b && !v.getLsbD b.bit) := by cases b <;> rfl

@[simp] theorem State.withAgenda_sticky (s : State) (l : List Event) (b : Sticky) :
    (s.withAgenda l).sticky b = s.sticky b := by cases b <;> rfl

@[simp] theorem State.withReply_sticky (s : State) (r : Reply) (b : Sticky) :
    (s.withReply r).sticky b = s.sticky b := by cases b <;> rfl

theorem busRead_sticky (P : Params) (off n : Nat) (s : State) (b : Sticky) :
    (s.busRead P off n).sticky b = s.sticky b := by rw [busRead_frame]; cases b <;> rfl

theorem writeRegion_sticky (s : State) (i : Nat) (bs : List Byte) (r : Region) (b : Sticky) :
    (s.writeRegion i bs r).sticky b = s.sticky b := by rw [writeRegion_frame]; cases b <;> rfl

theorem csrWrite_sticky {c : Csr} (hc : c ≠ .status) (s : State) (v : Word) (b : Sticky) :
    (s.csrWrite v c).sticky b = s.sticky b := by
  cases c with
  | status => exact absurd rfl hc
  | _ => cases b <;> rfl

/-- A command clears no sticky bit, but for SOFTRESET. -/
theorem exec_sticky {i : Instr} {s t : State} (h : exec i s = .next t) (hi : i ≠ .softreset) (b : Sticky)
    (hs : s.sticky b = true) : t.sticky b = true := by
  obtain ⟨-, -, -, -, -, -, -, hkept, -⟩ := exec_frame h
  obtain ⟨herr, hwarn, hbusywr⟩ := hkept hi
  cases b with
  | err => exact herr hs
  | warn => exact hwarn hs
  | busywr => exact hbusywr.trans hs

theorem illegalCommand_sticky (s : State) (w : Word) (b : Sticky) (hs : s.sticky b = true) :
    (s.illegalCommand w).sticky b = true := by
  cases b with
  | err => exact Bool.or_true _
  | warn => exact (Bool.or_false _).trans hs
  | busywr => exact hs

/-- The engine's step clears a sticky bit only as SOFTRESET (R180). -/
theorem engineStep_clears_sticky {s t : State} (b : Sticky) (h : engineStep s = .next t) (hs : s.sticky b = true)
    (ht : t.sticky b = false) : s.busy = true ∧ s.pending = some (encode .softreset) := by
  have hcleared : t.sticky b ≠ true := by simp [ht]
  cases hb : s.busy with
  | false => exact absurd (engineStep_idle h hb ▸ hs) hcleared
  | true =>
    rcases engineStep_busy h hb with ⟨i, hp, he⟩ | ⟨w, rfl⟩
    · by_cases hi : i = .softreset
      · exact ⟨rfl, hi ▸ hp⟩
      · exact absurd (exec_sticky he hi b hs) hcleared
    · exact absurd (illegalCommand_sticky s w b hs) hcleared

/-- An error code comes with ERR set (R29). -/
theorem exec_err {i : Instr} {s t : State} (h : exec i s = .next t) (hc : t.errcode ≠ 0#8) : t.err = true := by
  rcases exec_cases h with ⟨e, n, -, rfl⟩ | ⟨n, -, rfl⟩
  · simp [e.code.code_ne_zero]
  · exact absurd (by cases i <;> rfl) hc

theorem engineStep_err {s t : State} (h : engineStep s = .next t) (hb : s.busy = true) (hc : t.errcode ≠ 0#8) :
    t.err = true := by
  rcases engineStep_busy h hb with ⟨i, -, he⟩ | ⟨w, rfl⟩
  · exact exec_err he hc
  · exact Bool.or_true _

/-- A packing command that succeeds with an incomplete group sets WARN (R30, R155). -/
theorem exec_warn {i : Instr} {s t : State} (hi : i = .pack ∨ i = .process) (h : exec i s = .next t)
    (hc : t.errcode = 0#8) (hg : s.N % s.G ≠ 0) : t.warn = true := by
  rcases exec_cases h with ⟨e, n, -, rfl⟩ | ⟨n, -, rfl⟩
  · exact absurd hc e.code.code_ne_zero
  · have hwarns : (s.withFresh n).packWarns = true := decide_eq_true hg
    rcases hi with rfl | rfl <;> simp [commandWork, hwarns]

theorem engineStep_warn {s t : State} {i : Instr} (hi : i = .pack ∨ i = .process) (h : engineStep s = .next t)
    (hb : s.busy = true) (hp : s.pending = some (encode i)) (hc : t.errcode = 0#8) (hg : s.N % s.G ≠ 0) :
    t.warn = true := by
  have hexec : exec i s = .next t := by rw [← h, engineStep_of_pending hb hp]
  exact exec_warn hi hexec hc hg

/-! ## Host accesses -/

/-- What a host write can do: nothing but answer, set BUSYWR, write one register, or write one local memory. -/
theorem hostWrite_cases (P : Params) (off : Offset) (n : Width) (v : Word) (s : State) :
    (∃ r, s.busWrite P off.toNat n.bytes v = s.withReply r) ∨
    (s.busy = true ∧ s.busWrite P off.toNat n.bytes v = ({ s with busywr := true } : State).withReply .ok) ∨
    (∃ c, s.busy = false ∧ off = BitVec.ofNat 24 (csrOffset c) ∧ n = .four ∧
      s.busWrite P off.toNat n.bytes v = (s.csrWrite v c).withReply .ok) ∨
    (∃ r i bs, s.busy = false ∧ accessRegion P off.toNat n.bytes = some r ∧
      s.busWrite P off.toNat n.bytes v = (s.writeRegion i bs r).withReply .ok) := by
  rcases busWrite_cases P off.toNat n.bytes v s with
    ⟨-, ht⟩ | ⟨-, hb, ht⟩ | ⟨hr, hidle, ht⟩ | ⟨r, hr, -, hidle, ht⟩
  · exact .inl ⟨_, ht⟩
  · exact .inr (.inl ⟨hb, ht⟩)
  · obtain ⟨-, -, -, -, hfour, -⟩ := accessRegion_some hr
    have hn : n = .four := by
      have := hfour rfl
      cases n <;> simp_all [Width.bytes]
    rcases csrRegionWrite_cases s off.toNat v with hw | ⟨c, hc, hw⟩ <;> rw [hw] at ht
    · exact .inl ⟨_, ht⟩
    · exact .inr (.inr (.inl ⟨c, hidle, by rw [← hc, BitVec.ofNat_toNat, BitVec.setWidth_eq], hn, ht⟩))
  · exact .inr (.inr (.inr ⟨r, _, _, hidle, hr, ht⟩))

/-- A write that the window admits while BUSY is 1 (R70). -/
theorem busWrite_of_busy {P : Params} {off n : Nat} {s : State} (hb : s.busy = true) (h : accessRegion P off n ≠ none)
    (v : Word) : s.busWrite P off n v = ({ s with busywr := true } : State).withReply .ok := by
  rcases busWrite_cases P off n v s with ⟨hr, -⟩ | ⟨-, -, ht⟩ | ⟨-, hidle, -⟩ | ⟨r, -, -, hidle, -⟩
  · exact absurd hr h
  · exact ht
  all_goals rw [hidle] at hb; cases hb

/-- Only a write of CMD touches BUSY. -/
theorem csrWrite_busy {c : Csr} (hc : c ≠ .cmd) (s : State) (v : Word) : (s.csrWrite v c).busy = s.busy := by
  cases c with
  | cmd => exact absurd rfl hc
  | _ => rfl

theorem writeRegion_busy (s : State) (i : Nat) (bs : List Byte) (r : Region) :
    (s.writeRegion i bs r).busy = s.busy := by rw [writeRegion_frame]

theorem busRead_busy (P : Params) (off n : Nat) (s : State) : (s.busRead P off n).busy = s.busy := by
  rw [busRead_frame]

/-- No host write clears BUSY (R27). -/
theorem busWrite_keeps_busy {P : Params} {off n : Nat} {v : Word} {s : State} (hb : s.busy = true) :
    (s.busWrite P off n v).busy = true := by
  rcases busWrite_cases P off n v s with ⟨-, ht⟩ | ⟨-, -, ht⟩ | ⟨-, hidle, -⟩ | ⟨r, -, -, hidle, -⟩
  · rw [ht, State.withReply_busy, hb]
  · rw [ht, State.withReply_busy, hb]
  all_goals rw [hidle] at hb; cases hb

/-- A host write sets BUSY only as a write of CMD, which accepts the word (R170). -/
theorem busWrite_sets_busy {P : Params} {off : Offset} {n : Width} {v : Word} {s t : State}
    (ht : t = s.busWrite P off.toNat n.bytes v) (hidle : s.busy = false) (hset : t.busy = true) :
    off = 0x10#24 ∧ n = .four ∧ t.pending = some v ∧ t.done = false := by
  rcases hostWrite_cases P off n v s with ⟨r, hw⟩ | ⟨hb, -⟩ | ⟨c, -, hoff, hn, hw⟩ | ⟨r, i, bs, -, -, hw⟩
  · rw [ht, hw, State.withReply_busy, hidle] at hset; cases hset
  · rw [hidle] at hb; cases hb
  · rw [hw] at ht
    by_cases hc : c = .cmd
    · subst hc ht
      exact ⟨hoff, hn, rfl, rfl⟩
    · rw [ht, State.withReply_busy, csrWrite_busy hc, hidle] at hset; cases hset
  · rw [ht, hw, State.withReply_busy, writeRegion_busy, hidle] at hset; cases hset

/-- No host access touches OUTLEN (R41). -/
theorem busWrite_outlen (P : Params) (off n : Nat) (v : Word) (s : State) :
    (s.busWrite P off n v).outlen = s.outlen := by
  rcases busWrite_cases P off n v s with ⟨-, ht⟩ | ⟨-, -, ht⟩ | ⟨-, -, ht⟩ | ⟨r, -, -, -, ht⟩ <;> rw [ht]
  · rfl
  · rfl
  · obtain ⟨-, -, -, -, -, houtlen, -, -, -⟩ := csrRegionWrite_frame s off v
    exact houtlen
  · rw [writeRegion_frame]; rfl

/-- A host write clears a sticky bit only as a write of 1 to that bit of STATUS, while BUSY is 0 (R29 to R31). -/
theorem busWrite_clears_sticky {P : Params} {off : Offset} {n : Width} {v : Word} {s : State} (b : Sticky)
    (hs : s.sticky b = true) (ht : (s.busWrite P off.toNat n.bytes v).sticky b = false) :
    off = 0x14#24 ∧ n = .four ∧ v.getLsbD b.bit = true ∧ s.busy = false := by
  rcases hostWrite_cases P off n v s with ⟨r, hw⟩ | ⟨-, hw⟩ | ⟨c, hidle, hoff, hn, hw⟩ | ⟨r, i, bs, -, -, hw⟩ <;>
    rw [hw, State.withReply_sticky] at ht
  · rw [hs] at ht; cases ht
  · cases b with
    | busywr => cases ht
    | err | warn => exact absurd (ht.symm.trans hs) Bool.false_ne_true
  · by_cases hc : c = .status
    · subst hc
      have hclear : (s.sticky b && !v.getLsbD b.bit) = false := (s.clearStatus_sticky v b).symm.trans ht
      exact ⟨hoff, hn, by simpa [hs] using hclear, hidle⟩
    · rw [csrWrite_sticky hc, hs] at ht; cases ht
  · rw [writeRegion_sticky, hs] at ht; cases ht

/-! ## The input memories -/

/-- The memories that only the host writes (R45, R48, R49). -/
def State.inputs (s : State) : Mem Byte × Mem Byte × Mem Byte := (s.pix, s.kmem, s.tmem)

theorem engineStep_inputs {s t : State} (h : engineStep s = .next t) : t.inputs = s.inputs := by
  rcases engineStep_cases h with ⟨-, rfl⟩ | ⟨w, i, -, -, -, he⟩ | ⟨w, e, -, -, -, rfl⟩
  · rfl
  · obtain ⟨hpix, hkmem, htmem, -⟩ := exec_frame he
    rw [State.inputs, hpix, hkmem, htmem, State.inputs]
  · rfl

theorem hardReset_inputs (P : Params) (s : State) : (s.hardReset P).inputs = s.inputs := by
  rcases hardReset_cases P s with ht | ⟨w, i, -, -, -, ht⟩ <;> rw [ht]
  · rfl
  · rw [abandon_frame]; rfl

theorem hardReset_busy (P : Params) (s : State) : (s.hardReset P).busy = false := by
  rcases hardReset_cases P s with ht | ⟨w, i, -, -, -, ht⟩ <;> rw [ht, State.clearRegisters_busy]

/-- A host write that changes an input memory is an admitted write to that memory's region while BUSY is 0. -/
theorem busWrite_changes_inputs {P : Params} {off : Offset} {n : Width} {v : Word} {s t : State}
    (ht : t = s.busWrite P off.toNat n.bytes v) (hne : t.inputs ≠ s.inputs) :
    s.busy = false ∧ (t.pix ≠ s.pix → accessRegion P off.toNat n.bytes = some .pix) ∧
      (t.kmem ≠ s.kmem → accessRegion P off.toNat n.bytes = some .kmem) ∧
      (t.tmem ≠ s.tmem → accessRegion P off.toNat n.bytes = some .tmem) := by
  rcases hostWrite_cases P off n v s with ⟨r, hw⟩ | ⟨-, hw⟩ | ⟨c, -, -, -, hw⟩ | ⟨r, i, bs, hidle, hr, hw⟩ <;>
    rw [hw] at ht <;> subst ht
  · exact absurd rfl hne
  · exact absurd rfl hne
  · exact absurd (by cases c <;> rfl) hne
  · refine ⟨hidle, ?_⟩
    cases r with
    | pix => exact ⟨fun _ => hr, fun h => absurd rfl h, fun h => absurd rfl h⟩
    | kmem => exact ⟨fun h => absurd rfl h, fun _ => hr, fun h => absurd rfl h⟩
    | tmem => exact ⟨fun h => absurd rfl h, fun h => absurd rfl h, fun _ => hr⟩
    | csr | qbuf | out => exact absurd rfl hne

end Sys2Proof.Machine
end

section
/-! The claims about the steps of the machine. -/

namespace Sys2Proof.Machine

/-- Settles O53: after reset nothing is pending, every register is 0 and every memory is empty. -/
theorem invariantAtReset : Obligations.InvariantAtReset := fun _ =>
  { pending_iff_busy := rfl
    done_not_busy := fun hb => absurd hb Bool.false_ne_true
    errcode_le := Nat.zero_le _
    success_context := fun _ => ⟨rfl, rfl⟩
    outlen_le := Nat.zero_le _
    pix_wf := ⟨.nil, nofun⟩
    qbuf_wf := ⟨.nil, nofun⟩
    out_wf := ⟨.nil, nofun⟩
    kmem_wf := ⟨.nil, nofun⟩
    tmem_wf := ⟨.nil, nofun⟩ }

/-- Settles O55: a host access and a reset always answer, and the invariant gives the engine a word to run. -/
theorem invariantStatesStepOn : Obligations.InvariantStatesStepOn := by
  intro s h
  unfold State.StepsOn
  cases ha : s.agenda with
  | nil => rw [step_nil ha]; exact engineStep_of_inv h
  | cons e rest =>
    rw [step_cons ha]
    cases e with
    | read off n => exact ⟨_, rfl⟩
    | write off n v => exact ⟨_, rfl⟩
    | rst => exact ⟨_, rfl⟩
    | engine => exact engineStep_of_inv (h.withAgenda rest)

/-- Settles O49: a completion sets DONE, and only SOFTRESET touches IRQEN; acceptance clears DONE. -/
theorem interruptFollowsCompletion : Obligations.InterruptFollowsCompletion := by
  intro i s w
  refine ⟨⟨_, exec_eq i s, ?_⟩, Bool.and_false _⟩
  obtain ⟨-, -, -, -, -, -, hdone, -, -⟩ := exec_frame (exec_eq i s)
  rw [State.irq, hdone, Bool.and_true]
  exact exec_irqen (exec_eq i s)

/-- A step that clears a sticky bit is a STATUS write of 1 to it, a hardware reset, or SOFTRESET. -/
theorem step_clears_sticky {s t : State} (b : Sticky) (h : step s = .next t) (hs : s.sticky b = true)
    (ht : t.sticky b = false) :
    (∃ (v : Word) (rest : List Event), s.agenda = .write 0x14#24 .four v :: rest ∧ v.getLsbD b.bit = true ∧
      s.busy = false) ∨
    (∃ rest, s.agenda = .rst :: rest) ∨
    ((s.busy = true ∧ (s.agenda = [] ∨ ∃ rest, s.agenda = .engine :: rest)) ∧
      s.pending = some (encode .softreset)) := by
  have hagenda : ∀ l, (s.withAgenda l).sticky b = true := fun l => by rw [State.withAgenda_sticky, hs]
  rcases step_cases h with ⟨hturn, he⟩ | ⟨off, n, rest, -, rfl⟩ | ⟨off, n, v, rest, ha, rfl⟩ | ⟨rest, ha, -⟩
  · obtain ⟨hb, hp⟩ := engineStep_clears_sticky b he (hagenda _) ht
    exact .inr (.inr ⟨⟨hb, hturn⟩, hp⟩)
  · rw [busRead_sticky, hagenda] at ht; cases ht
  · obtain ⟨rfl, rfl, hbit, hidle⟩ := busWrite_clears_sticky b (hagenda rest) ht
    exact .inl ⟨v, rest, ha, hbit, hidle⟩
  · exact .inr (.inl ⟨rest, ha⟩)

/-- The step of the engine's turn is the engine's, with the turn taken off the agenda. -/
theorem engineStep_of_step {s t : State} (h : step s = .next t)
    (hturn : s.agenda = [] ∨ ∃ rest, s.agenda = .engine :: rest) :
    engineStep (s.withAgenda s.agenda.tail) = .next t := by
  rcases hturn with ha | ⟨rest, ha⟩
  · rw [ha, List.tail_nil, ← ha, ← h, step_nil ha]; rfl
  · rw [ha, List.tail_cons, ← h, step_cons ha]; rfl

/-- Settles O57: the completions set ERR and WARN, a dropped write sets BUSYWR, and each of the three is one sticky
bit. -/
theorem stickyBitsSetAndCleared : Obligations.StickyBitsSetAndCleared := by
  intro s t h
  refine ⟨?_, ?_, ?_, step_clears_sticky .err h, step_clears_sticky .warn h, step_clears_sticky .busywr h⟩
  · rintro ⟨hb, hturn⟩ hc
    exact engineStep_err (engineStep_of_step h hturn) hb hc
  · rintro ⟨hb, hturn⟩ (hp | hp) hc hg
    · exact engineStep_warn (.inl rfl) (engineStep_of_step h hturn) hb hp hc hg
    · exact engineStep_warn (.inr rfl) (engineStep_of_step h hturn) hb hp hc hg
  · intro off n v rest hb ha hr
    have hb' : (s.withAgenda rest).busy = true := hb
    rw [step_of_write ha, busWrite_of_busy hb' hr] at h
    exact (Host.Outcome.next.inj h).symm

/-- Settles O58: a write of CMD is the only one that touches BUSY, and the engine's step completes. -/
theorem busyChangesOnlyByTheLifecycle : Obligations.BusyChangesOnlyByTheLifecycle := by
  intro s t h
  rcases step_cases h with ⟨hturn, he⟩ | ⟨off, n, rest, -, rfl⟩ | ⟨off, n, v, rest, ha, ht⟩ | ⟨rest, ha, rfl⟩
  · refine ⟨fun hidle hset => ?_, fun hb _ => .inr ⟨hturn, (engineStep_completes he hb).2⟩⟩
    rw [engineStep_idle he hidle, State.withAgenda_busy, hidle] at hset
    cases hset
  · rw [busRead_busy]
    exact ⟨fun hidle hset => absurd (hidle.symm.trans hset) Bool.false_ne_true,
      fun hb hclear => absurd (hclear.symm.trans hb) Bool.false_ne_true⟩
  · refine ⟨fun hidle hset => ?_, fun hb hclear => ?_⟩
    · obtain ⟨rfl, rfl, hpending, hdone⟩ := busWrite_sets_busy (s := s.withAgenda rest) ht hidle hset
      exact ⟨v, rest, ha, hpending, hdone⟩
    · have hb' : (s.withAgenda rest).busy = true := hb
      rw [ht, busWrite_keeps_busy hb'] at hclear
      cases hclear
  · rw [hardReset_busy]
    exact ⟨fun _ hset => absurd hset Bool.false_ne_true, fun _ _ => .inl ⟨rest, ha⟩⟩

/-- Settles O59: of the events only a host write can change an input memory. -/
theorem inputMemoriesWrittenOnlyByHost : Obligations.InputMemoriesWrittenOnlyByHost := by
  intro s t h hne
  have hinputs : t.inputs ≠ s.inputs := fun heq => by
    simp only [State.inputs, Prod.mk.injEq] at heq
    obtain ⟨hpix, hkmem, htmem⟩ := heq
    exact hne.elim (· hpix) (Or.elim · (· hkmem) (· htmem))
  rcases step_cases h with ⟨-, he⟩ | ⟨off, n, rest, -, rfl⟩ | ⟨off, n, v, rest, ha, ht⟩ | ⟨rest, -, rfl⟩
  · exact absurd (engineStep_inputs he) hinputs
  · rw [busRead_frame] at hinputs
    exact absurd rfl hinputs
  · exact ⟨off, n, v, rest, ha, busWrite_changes_inputs (s := s.withAgenda rest) ht hinputs⟩
  · exact absurd (hardReset_inputs _ _) hinputs

/-- Settles O60: no host access touches OUTLEN, and of the commands only the packing ones and SOFTRESET do. -/
theorem outlenChangesOnlyByPacking : Obligations.OutlenChangesOnlyByPacking := by
  intro s t h hne
  rcases step_cases h with ⟨hturn, he⟩ | ⟨off, n, rest, -, rfl⟩ | ⟨off, n, v, rest, -, rfl⟩ | ⟨rest, ha, -⟩
  · cases hb : s.busy with
    | false =>
      rw [engineStep_idle he hb] at hne
      exact absurd rfl hne
    | true =>
      rcases engineStep_busy he hb with ⟨i, hp, hexec⟩ | ⟨w, rfl⟩
      · obtain ⟨-, -, -, -, -, -, -, -, houtlen⟩ := exec_frame hexec
        obtain ⟨hc, hi⟩ := houtlen hne
        refine .inr ⟨hturn, rfl, hc, ?_⟩
        rcases hi with rfl | rfl | rfl
        · exact .inl hp
        · exact .inr (.inl hp)
        · exact .inr (.inr hp)
      · exact absurd rfl hne
  · rw [busRead_frame] at hne
    exact absurd rfl hne
  · exact absurd (busWrite_outlen _ _ _ _ _) hne
  · exact .inl ⟨rest, ha⟩

end Sys2Proof.Machine
end

section
/-! SUPPORT. The accesses of the window as bounds on their offsets, the accesses of its physical addresses, and what a
write of a local memory leaves in each byte (spec/20_memory.md R61 to R69, R70, R73, R75). -/

namespace Sys2Proof

theorem Width.bytes_pos (n : Width) : 0 < n.bytes := by cases n <;> decide

theorem Width.bytes_eq_four {n : Width} : n.bytes = 4 ↔ n = .four := by cases n <;> decide

end Sys2Proof

namespace Sys2Proof.Machine

/-! ## Which accesses are admitted -/

/-- The window admits an access exactly when it is aligned, wholly inside one region, and of four bytes in the CSR
region (R66). -/
theorem accessRegion_iff {P : Params} (hP : P.wf = true) {off n : Nat} (hn : 0 < n) {r : Region} :
    accessRegion P off n = some r ↔
      off % n = 0 ∧ regionBase r ≤ off ∧ off + n ≤ regionBase r + regionSize P r ∧ (r = .csr → n = 4) := by
  constructor
  · intro h
    obtain ⟨halign, hlo, -, hend, hfour, -⟩ := accessRegion_some h
    exact ⟨halign, hlo, by omega, hfour⟩
  · rintro ⟨halign, hlo, hhi, hfour⟩
    have hat : regionAt P off = some r := (regionAt_iff hP).2 (inRegion_iff.2 ⟨hlo, by omega⟩)
    have hend : inRegion P (off + n - 1) r = true := inRegion_iff.2 ⟨by omega, by omega⟩
    unfold accessRegion
    rw [hat]
    exact if_pos ⟨halign, hend, hfour⟩

/-- The accesses to a local memory whose region is `lo` to `hi`. -/
theorem accessRegion_memory_iff {P : Params} (hP : P.wf = true) {off lo hi : Nat} {n : Width} {r : Region}
    (hr : r ≠ .csr) (hlo : regionBase r = lo) (hhi : regionBase r + regionSize P r = hi) :
    accessRegion P off n.bytes = some r ↔ off % n.bytes = 0 ∧ lo ≤ off ∧ off + n.bytes ≤ hi := by
  rw [accessRegion_iff hP n.bytes_pos, hhi, hlo]
  simp only [hr, false_implies, and_true]

/-! ## Physical addresses -/

theorem windowOffset_outside {base addr : Nat} (h : addr < base ∨ base + 0xFFFFFF < addr) :
    windowOffset base addr = none := if_neg (by omega)

theorem windowOffset_inside (base : Nat) (off : Offset) : windowOffset base (base + off.toNat) = some off := by
  have hlt := off.isLt
  rw [windowOffset, if_pos (by omega), Nat.add_sub_cancel_left, BitVec.ofNat_toNat, BitVec.setWidth_eq]

/-! ## A write while BUSY -/

/-- A write while BUSY is 1 changes at most BUSYWR and the response, and sets BUSYWR where the window admits it (R70,
R72). -/
theorem busWrite_busy_withBus (P : Params) (off n : Nat) (v : Word) {s : State} (hb : s.busy = true) :
    ∃ b r, s.busWrite P off n v = s.withBus b s.agenda r ∧ (accessRegion P off n ≠ none → b = true) := by
  cases h : accessRegion P off n with
  | none => exact ⟨s.busywr, _, busWrite_refused h s v, fun hne => absurd rfl hne⟩
  | some r => exact ⟨true, _, busWrite_of_busy hb (by simp [h]) v, fun _ => rfl⟩

/-! ## A write of a local memory while BUSY is 0 -/

/-- What the host sees of a byte it wrote: QBUF keeps bits 1:0 (R68). -/
def shownByte (r : Region) (b : Byte) : Byte := if r = .qbuf then (b.setWidth 2).setWidth 8 else b

/-- An admitted write to a local memory while BUSY is 0. -/
theorem busWrite_memory_idle {P : Params} {off n : Nat} {r : Region} (h : accessRegion P off n = some r)
    (hr : r ≠ .csr) {s : State} (hidle : s.busy = false) (v : Word) :
    s.busWrite P off n v = (s.writeRegion (off - regionBase r) (bytesOf n v) r).withReply .ok := by
  rcases busWrite_cases P off n v s with ⟨hn, -⟩ | ⟨-, hb, -⟩ | ⟨hcsr, -, -⟩ | ⟨r', hr', -, -, ht⟩
  · rw [h] at hn; cases hn
  · rw [hidle] at hb; cases hb
  · rw [h] at hcsr; exact absurd (Option.some.inj hcsr) hr
  · rw [h] at hr'; cases hr'; exact ht

/-- A cell that is not written keeps what it shows: one of another memory, or one outside the bytes. -/
theorem State.regionCell_writeRegion_of_not_mem (s : State) {i k : Nat} {bs : List Byte} {r r' : Region}
    (h : r' = r → ¬(i ≤ k ∧ k < i + bs.length)) : (s.writeRegion i bs r).regionCell k r' = s.regionCell k r' := by
  by_cases hr : r' = r
  · subst hr
    have hout := h rfl
    cases r' with
    | csr => rfl
    | kmem | tmem | pix | out => exact (Mem.cell_writeRange _ _ _ _).trans (if_neg hout)
    | qbuf =>
      rw [← List.length_map (fun b : Byte => b.setWidth 2)] at hout
      exact congrArg (Option.map (BitVec.setWidth 8)) ((Mem.cell_writeRange _ _ _ _).trans (if_neg hout))
  · rw [writeRegion_frame]
    cases r' <;> simp only [State.regionCell, Ne.symm hr, if_false]

/-- A written cell shows the byte written to it. -/
theorem State.regionCell_writeRegion_of_mem (s : State) {i j : Nat} {bs : List Byte} {r : Region} (hr : r ≠ .csr)
    (hj : j < bs.length) : (s.writeRegion i bs r).regionCell (i + j) r = some (shownByte r bs[j]) := by
  cases r with
  | csr => exact absurd rfl hr
  | kmem | tmem | pix | qbuf | out => simp [State.regionCell, State.writeRegion, Mem.cell_writeRange, shownByte, hj]

/-- The byte at an offset is what the cell of its region shows. -/
theorem State.byteAt_eq_bind (P : Params) (s : State) (off : Nat) :
    s.byteAt P off = (regionAt P off).bind (fun r => s.regionCell (off - regionBase r) r) := by
  cases h : regionAt P off with
  | none => unfold State.byteAt; rw [h]; rfl
  | some r => exact s.byteAt_of_regionAt h

section
variable {P : Params} {off n : Nat} {r : Region} (h : accessRegion P off n = some r) (s : State) (v : Word)
include h

/-- A byte outside the access keeps its value. -/
theorem byteAt_writeRegion_outside {a : Nat} (ha : a < off ∨ off + n ≤ a) :
    (s.writeRegion (off - regionBase r) (bytesOf n v) r).byteAt P a = s.byteAt P a := by
  obtain ⟨-, hlo, -⟩ := accessRegion_some h
  rw [State.byteAt_eq_bind, State.byteAt_eq_bind]
  cases hat : regionAt P a with
  | none => rfl
  | some r' =>
    have hlo' := (inRegion_iff.1 (List.find?_some hat)).1
    refine s.regionCell_writeRegion_of_not_mem fun hr => ?_
    subst hr
    rw [bytesOf_length]
    omega

/-- A byte of the access holds the byte of the value (R73). -/
theorem byteAt_writeRegion_inside (hP : P.wf = true) (hr : r ≠ .csr) {j : Nat} (hj : j < n) :
    (s.writeRegion (off - regionBase r) (bytesOf n v) r).byteAt P (off + j) =
      some (shownByte r (v.extractLsb' (8 * j) 8)) := by
  obtain ⟨-, hlo, -, hend, -⟩ := accessRegion_some h
  have hat : regionAt P (off + j) = some r := (regionAt_iff hP).2 (inRegion_iff.2 ⟨by omega, by omega⟩)
  rw [State.byteAt_of_regionAt hat, show off + j - regionBase r = off - regionBase r + j by omega,
    s.regionCell_writeRegion_of_mem hr (by rwa [bytesOf_length])]
  simp [bytesOf]

/-- The window admits a read of each single byte of an admitted access to a local memory (R66). -/
theorem accessRegion_byte (hP : P.wf = true) (hr : r ≠ .csr) {j : Nat} (hj : j < n) :
    accessRegion P (off + j) 1 = some r := by
  obtain ⟨-, hlo, -, hend, -⟩ := accessRegion_some h
  exact (accessRegion_iff hP Nat.one_pos).2 ⟨Nat.mod_one _, by omega, by omega, fun hc => absurd hc hr⟩

end

/-- The bits of a word that a byte of a local memory keeps. -/
def shownMask (r : Region) : Word := if r = .qbuf then 3#32 else 0xFF#32

/-- The shown byte of a word is the masked word. -/
theorem shownByte_setWidth (r : Region) (v : Word) (k : Nat) :
    (shownByte r (v.extractLsb' k 8)).setWidth 32 = (v >>> k) &&& shownMask r := by
  unfold shownByte shownMask
  apply BitVec.eq_of_getLsbD_eq
  intro i hi
  split <;> interval_cases i <;> simp

/-- A read of one written byte answers it, zero-extended (R68, R71, R73). -/
theorem busRead_byte {P : Params} (hP : P.wf = true) {s : State} {off : Nat} {r : Region} {b : Byte}
    (h : accessRegion P off 1 = some r) (hr : r ≠ .csr) (hidle : s.busy = false) (hb : s.byteAt P off = some b) :
    s.busRead P off 1 = s.withReply (.data (b.setWidth 32)) := by
  refine busRead_written hP (n := .one) h hr (fun hbusy => ?_) ?_ fun j hj => ?_
  · rw [hidle] at hbusy; cases hbusy
  · have := b.isLt
    rw [BitVec.toNat_setWidth, Width.bytes]
    omega
  · obtain rfl : j = 0 := Nat.lt_one_iff.1 hj
    rw [Nat.mul_zero, ← BitVec.setWidth_eq_extractLsb' (by decide), BitVec.setWidth_setWidth_of_le _ (by decide),
      BitVec.setWidth_eq, Nat.add_zero, hb]

/-- After a write of a local memory while BUSY is 0, a read of each byte answers the bits it keeps (R68, R73). -/
theorem busRead_writeRegion {P : Params} (hP : P.wf = true) {s : State} {off n : Nat} {r : Region}
    (h : accessRegion P off n = some r) (hr : r ≠ .csr) (hidle : s.busy = false) (v : Word) {j : Nat} (hj : j < n) :
    (((s.writeRegion (off - regionBase r) (bytesOf n v) r).withReply .ok).busRead P (off + j) 1).reply =
      some (.data ((v >>> (8 * j)) &&& shownMask r)) := by
  have hidle' : ((s.writeRegion (off - regionBase r) (bytesOf n v) r).withReply .ok).busy = false := by
    rw [State.withReply_busy, writeRegion_busy, hidle]
  rw [busRead_byte hP (accessRegion_byte h hP hr hj) hr hidle' (byteAt_writeRegion_inside h s v hP hr hj),
    State.withReply_reply, shownByte_setWidth]

end Sys2Proof.Machine
end

section
/-! The claims about the host window. -/

namespace Sys2Proof.Machine

/-- Settles O38: the bounds of R66 at the default parameters, and the offset of a physical address. -/
theorem accessMap : Obligations.AccessMap := by
  refine ⟨fun off n => ⟨?_, ?_, ?_, ?_, ?_, ?_⟩, fun P s addr n v => ⟨fun hout => ?_, ?_⟩⟩
  · rw [accessRegion_iff Config.params_wf n.bytes_pos]
    show _ ∧ 0 ≤ off ∧ off + n.bytes ≤ 0x100 ∧ _ ↔ _
    simp [Width.bytes_eq_four, and_assoc]
  · exact accessRegion_memory_iff Config.params_wf (r := .kmem) (by decide) rfl rfl
  · exact accessRegion_memory_iff Config.params_wf (r := .tmem) (by decide) rfl rfl
  · exact accessRegion_memory_iff Config.params_wf (r := .pix) (by decide) rfl rfl
  · exact accessRegion_memory_iff Config.params_wf (r := .qbuf) (by decide) rfl rfl
  · exact accessRegion_memory_iff Config.params_wf (r := .out) (by decide) rfl rfl
  · simp [accessOn, accessTurn, accessEvent, windowOffset_outside hout]
  · rintro off rfl
    simp [accessOn, accessTurn, accessEvent, windowOffset_inside, eventTurn]

/-- Settles O39: neither a read nor a write that is refused does more than answer. -/
theorem refusedAccessChangesNothing : Obligations.RefusedAccessChangesNothing := by
  rintro s off n v rest hnone (ha | ha)
  · rw [step_of_read ha, busRead_refused hnone]; rfl
  · rw [step_of_write ha, busWrite_refused hnone]; rfl

/-- Settles O40: the write is dropped but for BUSYWR. -/
theorem writeWhileBusyDropped : Obligations.WriteWhileBusyDropped := by
  intro s off n v rest hb hadm ha
  have hb' : (s.withAgenda rest).busy = true := hb
  rw [step_of_write ha, busWrite_of_busy hb' hadm]; rfl

/-- Settles O41: the write changes at most BUSYWR and the response, which no command reads. -/
theorem writesCannotChangeARunningCommand : Obligations.WritesCannotChangeARunningCommand := by
  intro s t i off n v hb hp hstep
  have hexec : exec i (s.withAgenda []) = .next t := by
    rw [← hstep, step_nil rfl, engineStep_of_pending (s := s.withAgenda []) hb hp]
  obtain ⟨b, r, hwrite, hset⟩ :=
    busWrite_busy_withBus Config.params off.toNat n.bytes v (s := s.withAgenda []) hb
  refine ⟨(s.withAgenda []).withBus b [] r, t.withBus (if i = .softreset then false else b) [] r, ?_, ?_, ?_,
    fun hadm => ?_⟩
  · rw [step_of_write rfl]; exact congrArg _ hwrite
  · rw [step_nil rfl, engineStep_of_pending (s := (s.withAgenda []).withBus b [] r) hb hp]
    exact exec_withBus b [] r hexec
  · obtain ⟨-, -, -, hagenda, -⟩ := exec_frame hexec
    have hagenda' : t.agenda = [] := hagenda
    rw [State.withBus, ← hagenda']
  · rw [hset hadm]; rfl

/-- Settles O48: the step is a write of one memory; its bytes are read back, every other byte keeps its value. -/
theorem memoryBytesReadBack : Obligations.MemoryBytesReadBack := by
  intro s off n v r rest hidle hadm hr ha
  have hidle' : (s.withAgenda rest).busy = false := hidle
  refine ⟨_, (step_of_write ha).trans (congrArg _ (busWrite_memory_idle hadm hr hidle' v)), ?_, fun j hj => ?_,
    fun a hout => ?_⟩
  · cases r <;> rfl
  · exact busRead_writeRegion Config.params_wf hadm hr hidle' v hj
  · exact byteAt_writeRegion_outside hadm (s.withAgenda rest) v hout

end Sys2Proof.Machine
end

section
/-! SUPPORT. The decoder as an inverse of the encoder: the fields of a command word, when a word is a command's and when
it is illegal, and the bytes of a word (spec/30_encoding.md R90 to R94, spec/20_memory.md R73). -/

namespace Sys2Proof.Machine

/-! ## The fields of a word (R90) -/

theorem wordOp_toNat (w : Word) : (wordOp w).toNat = w.toNat % 16 := by
  simp [wordOp, BitVec.extractLsb'_toNat]

theorem wordRsv_eq_zero_iff (w : Word) : wordRsv w = 0#28 ↔ w.toNat / 16 = 0 := by
  have hlt := w.isLt
  rw [← BitVec.toNat_inj]
  simp only [wordRsv, BitVec.extractLsb'_toNat, BitVec.toNat_ofNat, Nat.shiftRight_eq_div_pow]
  omega

/-! ## Commands and illegal words (R93, R94) -/

theorem decodeWord_ok_iff {w : Word} {i : Instr} : decodeWord w = .ok i ↔ w = encode i :=
  ⟨eq_encode_of_decodeWord, fun h => h ▸ decodeWord_encode i⟩

theorem decodeWord_reservedBits {w : Word} (h : w.toNat / 16 ≠ 0) : decodeWord w = .error (.reservedBits w) :=
  if_pos (mt (wordRsv_eq_zero_iff w).1 h)

theorem decodeWord_reservedOp {w : Word} (hrsv : w.toNat / 16 = 0) (hop : 7 ≤ w.toNat % 16) :
    decodeWord w = .error (.reservedOp w) := by
  rw [← wordOp_toNat] at hop
  rw [decodeWord, if_neg (not_not.2 ((wordRsv_eq_zero_iff w).2 hrsv))]
  split
  case h_8 => rfl
  all_goals omega

theorem decodeWord_of_illegal {w : Word} (h : 7 ≤ w.toNat % 16 ∨ w.toNat / 16 ≠ 0) :
    decodeWord w = .error (.reservedBits w) ∨ decodeWord w = .error (.reservedOp w) := by
  by_cases hrsv : w.toNat / 16 = 0
  · exact .inr (decodeWord_reservedOp hrsv (h.resolve_right (not_not.2 hrsv)))
  · exact .inl (decodeWord_reservedBits hrsv)

/-- The match values of R92 leave no gap below 7. -/
theorem exists_encode_toNat {n : Nat} (h : n < 7) : ∃ i, (encode i).toNat = n := by
  interval_cases n
  · exact ⟨.nop, rfl⟩
  · exact ⟨.diffuse, rfl⟩
  · exact ⟨.ordered, rfl⟩
  · exact ⟨.quantize, rfl⟩
  · exact ⟨.pack, rfl⟩
  · exact ⟨.process, rfl⟩
  · exact ⟨.softreset, rfl⟩

/-- A word that the decoder rejects, for whatever reason, is illegal: every other word is the word of a command. -/
theorem illegal_of_decodeWord_error {w : Word} {e : DecodeError} (h : decodeWord w = .error e) :
    7 ≤ w.toNat % 16 ∨ w.toNat / 16 ≠ 0 := by
  by_contra hlegal
  obtain ⟨i, hi⟩ := exists_encode_toNat (n := w.toNat) (by omega)
  rw [← BitVec.eq_of_toNat_eq hi, decodeWord_encode] at h
  cases h

/-- The completion of an illegal word, with the numbers of R94. -/
theorem illegalCommand_eq_recordedError (s : State) (w : Word) :
    s.illegalCommand w = s.recordedError 7#8 0x10#8 w :=
  complete_of_error ErrCode.illegalCommand.code_ne_zero _ w s

/-! ## The bytes of a word (R73) -/

theorem wordOfBytes_extract (w : Word) :
    wordOfBytes (w.extractLsb' 0 8) (w.extractLsb' 8 8) (w.extractLsb' 16 8) (w.extractLsb' 24 8) = w := by
  have hjoin (start k : Nat) :
      w.extractLsb' (start + 8) k ++ w.extractLsb' start 8 = w.extractLsb' start (k + 8) :=
    BitVec.extractLsb'_append_extractLsb'_eq_extractLsb' rfl
  rw [wordOfBytes, hjoin 16 8, hjoin 8 16, hjoin 0 24, BitVec.extractLsb'_eq_self]

/-- Decoding the bytes of a word decodes the word, and leaves the bytes after it. -/
theorem decode_bytesOfWord_append (w : Word) (rest : List Byte) :
    decode (bytesOfWord w ++ rest) = (decodeWord w).map (fun i => (i, rest)) := by
  simp only [bytesOfWord, List.cons_append, List.nil_append, decode, wordOfBytes_extract]
  cases decodeWord w <;> rfl

end Sys2Proof.Machine
end

section
/-! The claims about command words. -/

namespace Sys2Proof.Machine

/-- Settles O2: the decoder accepts the seven encoded words and rejects every other word by name. -/
theorem decodeIsExact : Obligations.DecodeIsExact := fun _ =>
  ⟨decodeWord_ok_iff, decodeWord_ok_iff, decodeWord_ok_iff, decodeWord_ok_iff, decodeWord_ok_iff, decodeWord_ok_iff,
    decodeWord_ok_iff, fun h => h.elim illegal_of_decodeWord_error illegal_of_decodeWord_error, decodeWord_of_illegal⟩

/-- Settles O6: the decoder rejects the word, and a completion with code 7 records the error. -/
theorem illegalWordCompletesWithError : Obligations.IllegalWordCompletesWithError := by
  intro s w hb hp hw
  simp only [← illegalCommand_eq_recordedError]
  exact (decodeWord_of_illegal hw).elim (step_of_illegal hb hp) (step_of_illegal hb hp)

/-- Settles O1: the seven words are the encoded commands, and a reserved OP alone in its word is rejected. -/
theorem commandWordsDecode : Obligations.CommandWordsDecode := by
  refine ⟨decodeWord_encode .nop, decodeWord_encode .diffuse, decodeWord_encode .ordered, decodeWord_encode .quantize,
    decodeWord_encode .pack, decodeWord_encode .process, decodeWord_encode .softreset, fun op hop => ?_⟩
  have hlt := op.isLt
  have hword : (op.setWidth 32).toNat = op.toNat := BitVec.toNat_setWidth_of_le (by decide)
  exact decodeWord_reservedOp (by omega) (by omega)

/-- Settles O3: the bytes of a word decode as the word does, and the word of a command decodes to it. -/
theorem decodeEncodeAgree : Obligations.DecodeEncodeAgree := by
  intro i rest _
  rw [encodeBytes, decode_bytesOfWord_append, decodeWord_encode]
  rfl

end Sys2Proof.Machine
end

section
/-! SUPPORT. The geometry of the kernel: where a cell's target stands, that it comes later in the raster order, and which
pixel and cell it comes from (spec/40_error_diffusion.md R111, R115, R116). -/

namespace Sys2Proof.Machine

/-- A cell loses its target below, to the left and to the right of the image; there is nothing above. -/
theorem tapTarget_eq_none {W H mid y x r c : Nat} :
    tapTarget W H mid y x r c = none ↔ H ≤ y + r ∨ x + c < mid ∨ W ≤ x + c - mid := by
  unfold tapTarget
  split <;> simp <;> omega

/-- The row and the column of a target. -/
theorem tapTarget_row_col {W H mid y x r c j : Nat} (h : tapTarget W H mid y x r c = some j) :
    j < W * H ∧ j / W = y + r ∧ j % W + mid = x + c := by
  obtain ⟨hrow, hleft, hright, rfl⟩ := tapTarget_eq_some.1 h
  have hW : 0 < W := by omega
  refine ⟨?_, ?_, ?_⟩
  · calc (y + r) * W + (x + c - mid) < (y + r) * W + W := by omega
      _ = W * (y + r + 1) := by ring
      _ ≤ W * H := Nat.mul_le_mul_left W hrow
  · rw [Nat.add_comm, Nat.add_mul_div_right _ _ hW, Nat.div_eq_of_lt hright, Nat.zero_add]
  · rw [Nat.add_comm, Nat.add_comm ((y + r) * W), Nat.add_mul_mod_self_right, Nat.mod_eq_of_lt hright]
    omega

/-- The cells that R111 applies send error forwards. -/
theorem lt_tapTarget {W H mid i r c j : Nat} (hcell : 1 ≤ r ∨ (r = 0 ∧ mid < c))
    (h : tapTarget W H mid (i / W) (i % W) r c = some j) : i < j := by
  obtain ⟨-, hrow, hcol⟩ := tapTarget_row_col h
  rcases hcell with hr | ⟨rfl, hc⟩
  · exact Nat.lt_of_div_lt_div (c := W) (by omega)
  · have hi := Nat.div_add_mod i W
    have hj := Nat.div_add_mod j W
    rw [hrow, Nat.add_zero] at hj
    omega

/-- From one pixel, distinct cells have distinct targets. -/
theorem tapTarget_cell_unique {W H mid y x r c r' c' j : Nat} (h : tapTarget W H mid y x r c = some j)
    (h' : tapTarget W H mid y x r' c' = some j) : r = r' ∧ c = c' := by
  obtain ⟨-, hrow, hcol⟩ := tapTarget_row_col h
  obtain ⟨-, hrow', hcol'⟩ := tapTarget_row_col h'
  omega

/-- By one cell, distinct pixels have distinct targets. -/
theorem tapTarget_source_unique {W H mid i i' r c j : Nat} (h : tapTarget W H mid (i / W) (i % W) r c = some j)
    (h' : tapTarget W H mid (i' / W) (i' % W) r c = some j) : i = i' := by
  obtain ⟨-, hrow, hcol⟩ := tapTarget_row_col h
  obtain ⟨-, hrow', hcol'⟩ := tapTarget_row_col h'
  have hdiv : i / W = i' / W := by omega
  have hmod : i % W = i' % W := by omega
  rw [← Nat.div_add_mod i W, ← Nat.div_add_mod i' W, hdiv, hmod]

end Sys2Proof.Machine
end

section
/-! The claims about the targets of kernel cells. -/

namespace Sys2Proof.Machine

/-- Settles O16: the target's row and column, and that an applied cell sends error forwards. -/
theorem appliedCellsReachLaterPixels : Obligations.AppliedCellsReachLaterPixels :=
  fun _ _ _ _ _ _ _ _ hcell h => ⟨lt_tapTarget hcell h, tapTarget_row_col h⟩

/-- Settles O17: the target's row gives the cell's row, and its column the cell's column. -/
theorem oneContributionPerTarget : Obligations.OneContributionPerTarget :=
  fun _ _ _ _ _ _ _ _ _ _ _ h h' => tapTarget_cell_unique h h'

/-- Settles O18: the model's comparisons of natural numbers are the signed ones. -/
theorem targetsAreClipped : Obligations.TargetsAreClipped := by
  intro W H mid y x r c
  rw [tapTarget_eq_none]
  omega

end Sys2Proof.Machine
end

section
/-! SUPPORT. The scan as a gather: each sample is a fold over the sources before it (spec/40_error_diffusion.md R113 to
R115), and a uniform image on which the errors have no effect. -/

namespace Sys2Proof.Machine

variable {α : Type}

/-- What pixel `j` holds after the contributions of one source, a sample with its bit and its index. -/
def receive (num : NumOps α) (W H mid : Nat) (taps : List (Tap α)) (j : Nat) (a : α) (src : (α × Bool) × Nat) : α :=
  taps.foldl
    (fun a t =>
      if tapTarget W H mid (src.2 / W) (src.2 % W) t.row t.col = some j
      then num.add a (num.mul (residual num src.1.1 src.1.2) t.weight) else a) a

/-- The scatter of one source, seen from one target. -/
theorem spread_getD_eq_receive (num : NumOps α) (W H mid i : Nat) (taps : List (Tap α)) (v d : α) (b : Bool)
    {acc : List α} {j : Nat} (hj : j < acc.length) :
    (spread num W H mid (i / W) (i % W) (residual num v b) taps acc).getD j d =
      receive num W H mid taps j (acc.getD j d) ((v, b), i) :=
  spread_getD num W H mid (i / W) (i % W) (residual num v b) d taps acc j hj

/-- The m-th sample of a scan is what its cell held at the start after the contributions of the m sources before it. -/
theorem scan_getElem? (num : NumOps α) (W H mid : Nat) (taps : List (Tap α)) (tie : Bool) {k i : Nat} {acc : List α}
    (hacc : i + k ≤ acc.length) {m : Nat} (hm : m < k) :
    ∃ v, (scan num W H mid taps tie k i acc)[m]? = some (v, round01 num v tie) ∧
      v = (((scan num W H mid taps tie k i acc).zipIdx i).take m).foldl (receive num W H mid taps (i + m))
        (acc.getD (i + m) (num.num 0)) := by
  induction k generalizing i acc m with
  | zero => omega
  | succ k ih =>
    rw [scan_succ num W H mid taps tie k i acc _ rfl]
    cases m with
    | zero => exact ⟨_, rfl, rfl⟩
    | succ m =>
      obtain ⟨v, hv, hfold⟩ := ih (i := i + 1) (m := m)
        (acc := spread num W H mid (i / W) (i % W)
          (residual num (acc.getD i (num.num 0)) (round01 num (acc.getD i (num.num 0)) tie)) taps acc)
        (by rw [spread_length]; omega) (by omega)
      rw [Nat.add_right_comm, Nat.add_assoc, spread_getD_eq_receive _ _ _ _ _ _ _ _ _ (by omega)] at hfold
      exact ⟨v, by simpa using hv, by simpa using hfold⟩

/-- A sample of error diffusion, as R115 says it: the normalised intensity, then the contributions in source order. -/
theorem diffusePixels_getElem? (num : NumOps α) (W H mid : Nat) (taps : List (Tap α)) (tie : Bool) {px : List Byte}
    (hpx : px.length = W * H) {j : Nat} (hj : j < W * H) :
    ∃ (p : Byte) (v : α), px[j]? = some p ∧
      (diffusePixels num W H mid taps tie px)[j]? = some (v, round01 num v tie) ∧
      v = ((diffusePixels num W H mid taps tie px).zipIdx.take j).foldl (receive num W H mid taps j)
        (normalise num p) := by
  have hp : px[j]? = some px[j] := List.getElem?_eq_getElem (by omega)
  obtain ⟨v, hv, hfold⟩ := scan_getElem? num W H mid taps tie (k := W * H) (i := 0)
    (acc := px.map (normalise num)) (by simp [hpx]) hj
  rw [Nat.zero_add, List.getD_eq_getElem?_getD, List.getElem?_map, hp] at hfold
  exact ⟨px[j], v, hp, hv, hfold⟩

/-- Spreading an error that changes no value of a uniform row of samples leaves it as it is. -/
theorem spread_replicate (num : NumOps α) (W H mid y x n : Nat) {e v : α} {taps : List (Tap α)}
    (h : ∀ t ∈ taps, num.add v (num.mul e t.weight) = v) :
    spread num W H mid y x e taps (List.replicate n v) = List.replicate n v := by
  induction taps with
  | nil => rfl
  | cons t ts ih =>
    have hmodify (i : Nat) :
        (List.replicate n v).modify i (fun a => num.add a (num.mul e t.weight)) = List.replicate n v := by
      refine List.ext_getElem (by simp) fun m _ _ => ?_
      rw [List.getElem_modify, List.getElem_replicate, h t List.mem_cons_self, ite_self]
    have ih := ih fun t ht => h t (List.mem_cons_of_mem _ ht)
    rw [spread]
    cases tapTarget W H mid y x t.row t.col with
    | none => exact ih
    | some i => simpa only [hmodify] using ih

/-- A uniform image whose errors have no effect is scanned to uniform samples. -/
theorem scan_replicate (num : NumOps α) (W H mid : Nat) {taps : List (Tap α)} {tie : Bool} {v : α}
    (h : ∀ t ∈ taps, num.add v (num.mul (residual num v (round01 num v tie)) t.weight) = v) {k i n : Nat}
    (hn : i + k ≤ n) :
    scan num W H mid taps tie k i (List.replicate n v) = List.replicate k (v, round01 num v tie) := by
  induction k generalizing i with
  | zero => rfl
  | succ k ih =>
    have hv : v = (List.replicate n v).getD i (num.num 0) := by
      rw [List.getD_eq_getElem?_getD, List.getElem?_replicate, if_pos (by omega), Option.getD_some]
    rw [scan_succ num W H mid taps tie k i _ v hv, spread_replicate num W H mid _ _ n h, ih (by omega),
      List.replicate_succ]

theorem diffusePixels_replicate (num : NumOps α) (W H mid : Nat) {taps : List (Tap α)} {tie : Bool} {p : Byte} {v : α}
    (hp : normalise num p = v)
    (h : ∀ t ∈ taps, num.add v (num.mul (residual num v (round01 num v tie)) t.weight) = v) :
    diffusePixels num W H mid taps tie (List.replicate (W * H) p) =
      List.replicate (W * H) (v, round01 num v tie) := by
  rw [diffusePixels, List.map_replicate, hp]
  exact scan_replicate num W H mid h (Nat.le_of_eq (Nat.zero_add _))

end Sys2Proof.Machine
end

section
/-! SUPPORT. binary64 at the values that the claims about DIFFUSE name (spec/00_scope.md R12, R13,
spec/40_error_diffusion.md R112, R113, R121). -/

namespace Sys2Proof.Machine

theorem f64Mag_eq_mod (b : F64) : f64Mag b = b.toNat % 2 ^ 63 := by
  simp [f64Mag, BitVec.extractLsb'_toNat]

theorem binary64_lt_nan_right {b : F64} (h : f64IsNaN b = true) (a : F64) : binary64.lt a b = false := by
  simp [binary64, f64Lt, h]

theorem binary64_eq_nan_left {a : F64} (h : f64IsNaN a = true) (b : F64) : binary64.eq a b = false := by
  simp [binary64, f64Eq, h]

/-- A NaN is neither above HALF nor equal to it. -/
theorem round01_binary64_nan {v : F64} (h : f64IsNaN v = true) (tie : Bool) : round01 binary64 v tie = false := by
  simp only [round01, NumOps.gt, binary64_lt_nan_right h, binary64_eq_nan_left h, Bool.false_eq_true, if_false]

theorem round01_binary64_inf (tie : Bool) : round01 binary64 0x7FF0000000000000#64 tie = true := by
  cases tie <;> decide +kernel

theorem round01_binary64_negInf (tie : Bool) : round01 binary64 0xFFF0000000000000#64 tie = false := by
  cases tie <;> decide +kernel

theorem round01_binary64_half (tie : Bool) : round01 binary64 0x3FE0000000000000#64 tie = tie := by
  cases tie <;> decide +kernel

theorem round01_binary64_zero (tie : Bool) : round01 binary64 0#64 tie = false := by
  cases tie <;> decide +kernel

theorem round01_binary64_one (tie : Bool) : round01 binary64 0x3FF0000000000000#64 tie = true := by
  cases tie <;> decide +kernel

theorem normalise_binary64_zero : normalise binary64 0#8 = 0#64 := by decide +kernel

theorem normalise_binary64_max : normalise binary64 255#8 = 0x3FF0000000000000#64 := by decide +kernel

theorem residual_binary64_zero : residual binary64 0#64 false = 0#64 := by decide +kernel

theorem residual_binary64_one : residual binary64 0x3FF0000000000000#64 true = 0#64 := by decide +kernel

theorem f64Round_zero (neg : Bool) (q : Nat) : f64Round neg 0 q = f64OfMag neg 0 := by
  simp [f64Round, roundTiesToEven]

/-- Zero times a finite value is a zero, with that value's sign. -/
theorem f64Mul_zero_of_finite {w : F64} (h : f64IsFinite w = true) :
    f64Mul 0#64 w = f64OfMag (f64Sign w) 0 := by
  have hmag : f64Mag w < f64InfMag := of_decide_eq_true h
  have hnan : f64IsNaN w = false := decide_eq_false (Nat.not_lt_of_lt hmag)
  have hinf : f64IsInf w = false := beq_false_of_ne (Nat.ne_of_lt hmag)
  have hnan0 : f64IsNaN 0#64 = false := by decide
  have hinf0 : f64IsInf 0#64 = false := by decide
  have hunits : f64Units 0#64 = 0 := by decide
  have hsign : f64Sign 0#64 = false := by decide
  rw [f64Mul, hnan, hinf, hnan0, hinf0, if_neg (by decide), if_neg (by decide), hunits, hsign,
    Nat.zero_mul, f64Round_zero, Bool.false_bne]

/-- What a zero error sends by a finite weight changes neither 0.0 nor 1.0. -/
theorem add_mul_zero_binary64 {v w : F64} (hv : v = 0#64 ∨ v = 0x3FF0000000000000#64) (h : f64IsFinite w = true) :
    binary64.add v (binary64.mul 0#64 w) = v := by
  show f64Add v (f64Mul 0#64 w) = v
  rw [f64Mul_zero_of_finite h]
  rcases hv with rfl | rfl <;> cases f64Sign w <;> decide +kernel

end Sys2Proof.Machine
end

section
/-! The claim about the samples of the scan. -/

namespace Sys2Proof.Machine

/-- Settles O15: the scan is a gather, and the roundings of R113 in binary64. -/
theorem sampleIsFoldOfContributions : Obligations.SampleIsFoldOfContributions := by
  refine ⟨fun α num W H mid taps tie px hpx j hj => ?_, fun tie =>
    ⟨fun v hv => round01_binary64_nan ?_ tie, round01_binary64_inf tie, round01_binary64_negInf tie,
      round01_binary64_half tie⟩⟩
  · obtain ⟨p, v, hp, hv, hfold⟩ := diffusePixels_getElem? num W H mid taps tie hpx hj
    exact ⟨_, p, v, round01 num v tie, rfl, diffusePixels_length num W H mid taps tie px, hp, hv, rfl, hfold⟩
  · rw [f64IsNaN, f64Mag_eq_mod]
    exact decide_eq_true hv

end Sys2Proof.Machine
end

section
/-! SUPPORT. What DIFFUSE answers where depth, size and kernel shape are legal: the outcome of CHK_KW, the pixels it
reads and the cells it writes (spec/40_error_diffusion.md R110, R117, spec/60_exceptions.md R191). -/

namespace Sys2Proof.Machine

/-! ## The checks -/

/-- CHK_KW passes, or names an applied cell. -/
theorem chkKw_cases (P : Params) (s : State) (n : Nat) :
    (∃ n', chkKw P s n = (none, n')) ∨
      ∃ r c n', s.AppliedCell r c ∧
        chkKw P s n = (some ⟨.invalidKernel, memoryInfo, BitVec.ofNat 32 (r * P.kcMax + c)⟩, n') := by
  rw [chkKw]
  rcases hbad : firstBadWeight P s (appliedCells s.KR s.KC) n with ⟨_ | ⟨r, c⟩, n'⟩
  · exact .inl ⟨n', rfl⟩
  · exact .inr ⟨r, c, n', mem_appliedCells.1 (firstBadWeight_mem hbad), rfl⟩

/-- With a legal depth, size and kernel shape only CHK_KW is left of the checks of DIFFUSE. -/
theorem validate_diffuse_of_shape {P : Params} {s : State} (h : s.DepthLegal) (h' : s.SizeLegal P)
    (hk : s.KernelShapeLegal P) : validate P .diffuse s = chkKw P s s.fresh := by
  obtain ⟨hodd, hcols, hrows⟩ := hk
  rw [validate_of_size h h' rfl, runChecks_cons, runChecks_cons, runChecks_cons]
  simp only [runChk, chkKc_none.2 ⟨hodd, hcols⟩, chkKr_none.2 hrows, runChecks_nil]
  rcases chkKw P s s.fresh with ⟨_ | e, n⟩ <;> rfl

/-! ## The cells written -/

theorem bilevel_eq (s : State) (b : Bool) : s.bilevel b = if b then BitVec.ofNat 2 (2 ^ s.BPP - 1) else 0#2 := rfl

/-- DIFFUSE writes QBUF below N, and every value it writes is bilevel (R117). -/
theorem diffuseValues_bilevel (P : Params) (s : State) {i : Nat} (hi : i < s.N) :
    ∃ b, (diffuseValues P s).1[i]? = some (s.bilevel b) := by
  rw [← diffuseValues_length P s] at hi
  have hget := List.getElem?_eq_getElem hi
  simp only [diffuseValues, List.getElem_map] at hget
  exact ⟨_, hget⟩

/-- Where the checks pass, DIFFUSE overlays QBUF with its values and completes. -/
theorem exec_diffuse_of_valid {s : State} {n : Nat} (h : validate Config.params .diffuse s = (none, n)) :
    ∃ t, exec .diffuse s = .next t ∧ t = { s.completed with qbuf := t.qbuf, fresh := t.fresh } ∧
      (∀ i < s.N, Mem.cell t.qbuf i = (diffuseValues Config.params (s.withFresh n)).1[i]?) ∧
      ∀ i, s.N ≤ i → Mem.cell t.qbuf i = Mem.cell s.qbuf i := by
  have hlen : (diffuseValues Config.params (s.withFresh n)).1.length = s.N := diffuseValues_length _ _
  refine ⟨_, exec_of_valid h, ?_, fun i hi => ?_, fun i hi => ?_⟩
  · simp only [commandWork, completeOk_eq_completed, Bool.or_false]; rfl
  · exact Mem.cell_overlay_lt (hlen.symm ▸ hi) _
  · exact Mem.cell_overlay_ge (hlen.symm ▸ hi) _

/-! ## The pixels read -/

/-- The pixels a conversion reads where its weights draw no free value: PIX below N, free values where it is
unwritten. -/
def State.pixelsRead (s : State) : List Byte := (Mem.readRange Config.freeByte s.pix s.N 0 s.fresh).1

@[simp] theorem State.pixelsRead_length (s : State) : s.pixelsRead.length = s.N := Mem.readRange_length _ _ _ _ _

theorem State.pixelsRead_getElem? {s : State} {i : Nat} (hi : i < s.N) {p : Byte} (h : Mem.cell s.pix i = some p) :
    s.pixelsRead[i]? = some p :=
  Mem.readRange_value hi (by rwa [Nat.zero_add])

/-- Written pixels are read as they stand. -/
theorem State.pixelsRead_eq {s : State} {px : List Byte} (hlen : px.length = s.N)
    (h : ∀ i < s.N, ∃ p, Mem.cell s.pix i = some p ∧ px[i]? = some p) : s.pixelsRead = px := by
  refine List.ext_getElem? fun i => ?_
  by_cases hi : i < s.N
  · obtain ⟨p, hcell, hpx⟩ := h i hi
    rw [State.pixelsRead_getElem? hi hcell, hpx]
  · rw [List.getElem?_eq_none (by simpa using hi), List.getElem?_eq_none (by omega)]

theorem State.pixelsRead_eq_replicate {s : State} {p : Byte} (h : ∀ i < s.N, Mem.cell s.pix i = some p) :
    s.pixelsRead = List.replicate (s.W * s.H) p :=
  State.pixelsRead_eq List.length_replicate fun i hi => ⟨p, h i hi, List.getElem?_replicate_of_lt hi⟩

/-! ## A legal kernel -/

/-- What the engine computes with a legal kernel: the binary64 scan of the pixels read. -/
def State.kernelScan (s : State) (w : Nat → Nat → F64) : List (F64 × Bool) :=
  diffusePixels binary64 s.W s.H (s.KC / 2) (s.kernelTaps w) s.edtie s.pixelsRead

/-- DIFFUSE with a legal configuration completes, and writes the bits of the scan as 0s and L1s. -/
theorem exec_diffuse_of_legal {s : State} {w : Nat → Nat → F64} (h : s.DepthLegal) (h' : s.SizeLegal Config.params)
    (hk : s.KernelLegal Config.params w) :
    ∃ t, exec .diffuse s = .next t ∧ t = { s.completed with qbuf := t.qbuf, fresh := t.fresh } ∧
      (∀ i < s.N, Mem.cell t.qbuf i = ((s.kernelScan w)[i]?).map (fun vb => s.bilevel vb.2)) ∧
      ∀ i, s.N ≤ i → Mem.cell t.qbuf i = Mem.cell s.qbuf i := by
  obtain ⟨t, hexec, hframe, hcells, hrest⟩ := exec_diffuse_of_valid (validate_diffuse_of_legal h h' hk)
  refine ⟨t, hexec, hframe, fun i hi => ?_, hrest⟩
  rw [hcells i hi, withFresh_self, diffuseValues_of_legal hk, List.getElem?_map]
  rfl

theorem kernelTaps_finite {P : Params} {s : State} {w : Nat → Nat → F64} (hk : s.KernelLegal P w) :
    ∀ t ∈ s.kernelTaps w, f64IsFinite t.weight = true := by
  intro t ht
  obtain ⟨⟨r, c⟩, hrc, rfl⟩ := List.mem_map.1 ht
  obtain ⟨-, hfinite, -⟩ := hk.2 r c (mem_appliedCells.1 hrc)
  exact hfinite

/-- An image all 0 or all 255 has normalised intensities of 0.0 or 1.0, which round to themselves: every error is 0.0,
and no sample ever changes (R121). -/
theorem kernelScan_uniform {s : State} {w : Nat → Nat → F64} (hk : s.KernelLegal Config.params w) {p : Byte} {v : F64}
    {b : Bool} (hpix : ∀ i < s.N, Mem.cell s.pix i = some p) (hp : normalise binary64 p = v)
    (hv : v = 0#64 ∨ v = 0x3FF0000000000000#64) (hround : round01 binary64 v s.edtie = b)
    (hres : residual binary64 v b = 0#64) : s.kernelScan w = List.replicate s.N (v, b) := by
  rw [State.kernelScan, State.pixelsRead_eq_replicate hpix, diffusePixels_replicate binary64 _ _ _ hp, hround,
    State.N]
  intro t ht
  rw [hround, hres]
  exact add_mul_zero_binary64 hv (kernelTaps_finite hk t ht)

end Sys2Proof.Machine
end

section
/-! The claims about the command DIFFUSE. -/

namespace Sys2Proof.Machine

/-- Settles O12: the cells of the scan of the pixels read. -/
theorem diffuseResult : Obligations.DiffuseResult := by
  intro s w h h' hk
  obtain ⟨t, hexec, hframe, hcells, hrest⟩ := exec_diffuse_of_legal h h' hk
  refine ⟨t, s.pixelsRead, hexec, hframe, s.pixelsRead_length, fun i hi b hb => State.pixelsRead_getElem? hi hb,
    fun i hi => ?_, hrest⟩
  obtain ⟨⟨v, b⟩, hvb⟩ : ∃ vb, (s.kernelScan w)[i]? = some vb :=
    ⟨_, List.getElem?_eq_getElem (by rwa [State.kernelScan, diffusePixels_length])⟩
  refine ⟨v, b, hvb, ?_⟩
  rw [hcells i hi, hvb, Option.map_some, bilevel_eq]

/-- Settles O13: CHK_KW decides which of the two it is. -/
theorem diffuseExtremesOrKernelError : Obligations.DiffuseExtremesOrKernelError := by
  intro s h h' hk
  have hvalid := validate_diffuse_of_shape h h' hk
  rcases chkKw_cases Config.params s s.fresh with ⟨n, hkw⟩ | ⟨r, c, n, hrc, hkw⟩
  · obtain ⟨t, hexec, hframe, hcells, hrest⟩ := exec_diffuse_of_valid (hvalid.trans hkw)
    refine ⟨t, hexec, .inl ⟨hframe, fun i hi => ?_, hrest⟩⟩
    obtain ⟨b, hb⟩ := diffuseValues_bilevel Config.params (s.withFresh n) hi
    rw [hcells i hi, hb, State.withFresh_bilevel, bilevel_eq]
    cases b
    · exact .inl rfl
    · exact .inr rfl
  · exact ⟨_, exec_of_error_recorded (hvalid.trans hkw), .inr ⟨r, c, hrc, rfl⟩⟩

/-- Settles O14: the scan of a uniform image is uniform. -/
theorem diffuseUniformExtremes : Obligations.DiffuseUniformExtremes := by
  intro s w h h' hk
  obtain ⟨t, hexec, -, hcells, -⟩ := exec_diffuse_of_legal h h' hk
  have huniform {v : F64} {b : Bool} (hscan : s.kernelScan w = List.replicate s.N (v, b)) (i : Nat) (hi : i < s.N) :
      Mem.cell t.qbuf i = some (s.bilevel b) := by
    rw [hcells i hi, hscan, List.getElem?_replicate_of_lt hi, Option.map_some]
  exact ⟨t, hexec,
    fun hpix => huniform (kernelScan_uniform hk hpix normalise_binary64_zero (.inl rfl) (round01_binary64_zero _)
      residual_binary64_zero),
    fun hpix => huniform (kernelScan_uniform hk hpix normalise_binary64_max (.inr rfl) (round01_binary64_one _)
      residual_binary64_one)⟩

/-- Settles O22: the two states read the same pixels, and so scan the same samples. -/
theorem diffuseDependsOnItsInputsAlone : Obligations.DiffuseDependsOnItsInputsAlone := by
  intro s s' w h h' hk hk' hwidth hheight hkrows hkcols hbpp htie hpix
  have hW : s'.W = s.W := congrArg BitVec.toNat hwidth
  have hH : s'.H = s.H := congrArg BitVec.toNat hheight
  have hN : s'.N = s.N := by rw [State.N, State.N, hW, hH]
  have hKR : s'.KR = s.KR := congrArg BitVec.toNat hkrows
  have hKC : s'.KC = s.KC := congrArg BitVec.toNat hkcols
  have hBPP : s'.BPP = s.BPP := congrArg BitVec.toNat hbpp
  have hread : s'.pixelsRead = s.pixelsRead := by
    refine State.pixelsRead_eq (by rw [State.pixelsRead_length, hN]) fun i hi => ?_
    rw [hN] at hi
    obtain ⟨p, hp, hp'⟩ := hpix i hi
    exact ⟨p, hp', State.pixelsRead_getElem? hi hp⟩
  have hscan : s'.kernelScan w = s.kernelScan w := by
    simp only [State.kernelScan, State.kernelTaps, hW, hH, hKR, hKC, htie, hread]
  obtain ⟨t, hexec, -, hcells, -⟩ := exec_diffuse_of_legal h h' hk
  obtain ⟨t', hexec', -, hcells', -⟩ := exec_diffuse_of_legal (s := s') (by rwa [State.DepthLegal, hBPP])
    (by rwa [State.SizeLegal, hW, hH]) hk'
  refine ⟨t, t', hexec, hexec', fun i hi => ?_⟩
  rw [hcells i hi, hcells' i (hN.symm ▸ hi), hscan]
  simp only [bilevel_eq, hBPP]

end Sys2Proof.Machine
end

section
/-! SUPPORT. The scan in exact rationals: the contributions as sums, the bounds of the samples, and where the error goes
(spec/40_error_diffusion.md R120, R122). -/

namespace Sys2Proof.Machine

/-! ## The contributions of a source -/

/-- The error of a source, a sample with its bit and its index (R114). -/
def sourceError (src : (ℚ × Bool) × Nat) : ℚ := src.1.1 - (src.1.2.toNat : ℚ)

theorem residual_exactRational (v : ℚ) (b : Bool) : residual exactRational v b = v - (b.toNat : ℚ) := rfl

/-- What a source sends to pixel `j` by one tap. -/
def contribution (W H mid j : Nat) (src : (ℚ × Bool) × Nat) (t : Tap ℚ) : ℚ :=
  if tapTarget W H mid (src.2 / W) (src.2 % W) t.row t.col = some j then sourceError src * t.weight else 0

/-- What a source sends to pixel `j`. -/
def contributions (W H mid : Nat) (taps : List (Tap ℚ)) (j : Nat) (src : (ℚ × Bool) × Nat) : ℚ :=
  (taps.map (contribution W H mid j src)).sum

theorem contributions_nil (W H mid j : Nat) : contributions W H mid [] j = fun _ => 0 := rfl

theorem contributions_cons (W H mid j : Nat) (t : Tap ℚ) (ts : List (Tap ℚ)) (src : (ℚ × Bool) × Nat) :
    contributions W H mid (t :: ts) j src = contribution W H mid j src t + contributions W H mid ts j src := by
  simp [contributions]

theorem receive_exactRational (W H mid : Nat) (taps : List (Tap ℚ)) (j : Nat) (a : ℚ) (src : (ℚ × Bool) × Nat) :
    receive exactRational W H mid taps j a src = a + contributions W H mid taps j src := by
  induction taps generalizing a with
  | nil => simp [receive, contributions_nil]
  | cons t ts ih =>
    have hstep : receive exactRational W H mid (t :: ts) j a src =
        receive exactRational W H mid ts j (a + contribution W H mid j src t) src := by
      rw [receive, List.foldl_cons, contribution]
      split
      · rfl
      · rw [add_zero]; rfl
    rw [hstep, ih, contributions_cons, add_assoc]

theorem foldl_receive_exactRational (W H mid : Nat) (taps : List (Tap ℚ)) (j : Nat) (a : ℚ)
    (srcs : List ((ℚ × Bool) × Nat)) :
    srcs.foldl (receive exactRational W H mid taps j) a = a + (srcs.map (contributions W H mid taps j)).sum := by
  induction srcs generalizing a with
  | nil => simp
  | cons src srcs ih => rw [List.foldl_cons, ih, receive_exactRational, List.map_cons, List.sum_cons, add_assoc]

/-! ## The bounds -/

/-- At most one of several sources reaches a pixel by a given tap. -/
theorem abs_sum_contribution_le {W H mid j : Nat} {t : Tap ℚ} (ht : 0 ≤ t.weight) {srcs : List ((ℚ × Bool) × Nat)}
    (hdistinct : srcs.Pairwise (fun src src' => src.2 ≠ src'.2)) (he : ∀ src ∈ srcs, |sourceError src| ≤ 1 / 2) :
    |(srcs.map (fun src => contribution W H mid j src t)).sum| ≤ 1 / 2 * t.weight := by
  induction srcs with
  | nil => simpa using ht
  | cons src srcs ih =>
    obtain ⟨hne, hdistinct⟩ := List.pairwise_cons.1 hdistinct
    obtain ⟨hsrc, he⟩ := List.forall_mem_cons.1 he
    rw [List.map_cons, List.sum_cons]
    by_cases hhit : tapTarget W H mid (src.2 / W) (src.2 % W) t.row t.col = some j
    · have hrest : (srcs.map (fun src => contribution W H mid j src t)).sum = 0 := by
        refine List.sum_eq_zero fun q hq => ?_
        obtain ⟨src', hmem, rfl⟩ := List.mem_map.1 hq
        exact if_neg fun hhit' => hne src' hmem (tapTarget_source_unique hhit hhit')
      rw [hrest, add_zero, contribution, if_pos hhit, abs_mul, abs_of_nonneg ht]
      exact mul_le_mul_of_nonneg_right hsrc ht
    · rw [contribution, if_neg hhit, zero_add]
      exact ih hdistinct he

/-- So what a pixel receives is at most half the sum of the weights, where no error is above 1/2. -/
theorem abs_sum_contributions_le {W H mid j : Nat} {taps : List (Tap ℚ)} (hw : ∀ t ∈ taps, 0 ≤ t.weight)
    {srcs : List ((ℚ × Bool) × Nat)} (hdistinct : srcs.Pairwise (fun src src' => src.2 ≠ src'.2))
    (he : ∀ src ∈ srcs, |sourceError src| ≤ 1 / 2) :
    |(srcs.map (contributions W H mid taps j)).sum| ≤ 1 / 2 * (taps.map (fun t => t.weight)).sum := by
  induction taps with
  | nil => simp [contributions_nil]
  | cons t ts ih =>
    obtain ⟨ht, hts⟩ := List.forall_mem_cons.1 hw
    have hsplit : (srcs.map (contributions W H mid (t :: ts) j)).sum =
        (srcs.map (fun src => contribution W H mid j src t)).sum +
          (srcs.map (contributions W H mid ts j)).sum := by
      rw [← List.sum_map_add]
      exact congrArg List.sum (List.map_congr_left fun src _ => contributions_cons W H mid j t ts src)
    calc |(srcs.map (contributions W H mid (t :: ts) j)).sum|
        ≤ |(srcs.map (fun src => contribution W H mid j src t)).sum| +
            |(srcs.map (contributions W H mid ts j)).sum| := hsplit ▸ abs_add_le _ _
      _ ≤ 1 / 2 * t.weight + 1 / 2 * (ts.map (fun t => t.weight)).sum :=
          add_le_add (abs_sum_contribution_le ht hdistinct he) (ih hts)
      _ = 1 / 2 * ((t :: ts).map (fun t => t.weight)).sum := by rw [List.map_cons, List.sum_cons, mul_add]

/-- Rounding a sample of [-1/2, 3/2] leaves an error of at most 1/2, whatever the tie rule. -/
theorem abs_sub_round01_le {v : ℚ} (hlo : -(1 / 2) ≤ v) (hhi : v ≤ 3 / 2) (tie : Bool) :
    |v - ((round01 exactRational v tie).toNat : ℚ)| ≤ 1 / 2 := by
  have hhalf : exactRational.half = 1 / 2 := rfl
  have hgt : exactRational.gt v (1 / 2) = decide (1 / 2 < v) := rfl
  have heq : exactRational.eq v (1 / 2) = decide (v = 1 / 2) := rfl
  rw [round01, hhalf, hgt, heq, abs_le]
  rcases lt_trichotomy v (1 / 2) with h | rfl | h
  · simp only [not_lt_of_gt h, ne_of_lt h, decide_false, Bool.false_eq_true, if_false, Bool.toNat_false]
    constructor <;> push_cast <;> linarith
  · cases tie <;> norm_num
  · simp only [h, decide_true, if_true, Bool.toNat_true]
    constructor <;> push_cast <;> linarith

theorem normalise_exactRational (p : Byte) : normalise exactRational p = (p.toNat : ℚ) / 255 := rfl

theorem normalise_exactRational_mem (p : Byte) : 0 ≤ (p.toNat : ℚ) / 255 ∧ (p.toNat : ℚ) / 255 ≤ 1 := by
  have hp : (p.toNat : ℚ) ≤ 255 := by exact_mod_cast Nat.le_of_lt_succ p.isLt
  exact ⟨by positivity, by linarith⟩

/-- A place of `l.zipIdx` before the j-th holds an earlier entry of `l` with its index. -/
theorem exists_of_mem_take_zipIdx {α : Type} {l : List α} {j : Nat} {q : α × Nat} (h : q ∈ l.zipIdx.take j) :
    q.2 < j ∧ l[q.2]? = some q.1 := by
  obtain ⟨m, hm, rfl⟩ := List.mem_take_iff_getElem.1 h
  rw [List.getElem_zipIdx, Nat.zero_add]
  exact ⟨by omega, List.getElem?_eq_getElem _⟩

theorem pairwise_zipIdx_index_ne {α : Type} (l : List α) : l.zipIdx.Pairwise (fun q q' => q.2 ≠ q'.2) := by
  rw [List.pairwise_iff_getElem]
  intro a b ha hb hab
  simp only [List.getElem_zipIdx]
  omega

section
variable {W H mid : Nat} {taps : List (Tap ℚ)} {tie : Bool} {px : List Byte}

/-- R122, by induction on the raster index: the sources of a sample have small errors, and so has the sample. -/
theorem exact_sample_bounded (hpx : px.length = W * H) (hw : ∀ t ∈ taps, 0 ≤ t.weight)
    (hsum : (taps.map (fun t => t.weight)).sum ≤ 1) (j : Nat) {v : ℚ} {b : Bool}
    (hj : (diffusePixels exactRational W H mid taps tie px)[j]? = some (v, b)) :
    -(1 / 2) ≤ v ∧ v ≤ 3 / 2 ∧ |v - (b.toNat : ℚ)| ≤ 1 / 2 := by
  induction j using Nat.strong_induction_on generalizing v b with
  | h j ih =>
    obtain ⟨hlt, -⟩ := List.getElem?_eq_some_iff.1 hj
    rw [diffusePixels_length] at hlt
    obtain ⟨p, v', -, hv', hfold⟩ := diffusePixels_getElem? exactRational W H mid taps tie hpx hlt
    obtain ⟨rfl, rfl⟩ := Prod.mk.inj (Option.some.inj (hj.symm.trans hv'))
    rw [foldl_receive_exactRational, normalise_exactRational] at hfold
    have hreceived := abs_sum_contributions_le (W := W) (H := H) (mid := mid) (j := j) hw
      ((pairwise_zipIdx_index_ne _).sublist (List.take_sublist j _)) fun src hsrc => by
        obtain ⟨hearlier, hget⟩ := exists_of_mem_take_zipIdx hsrc
        obtain ⟨-, -, herr⟩ := ih src.2 hearlier hget
        exact herr
    obtain ⟨hlo, hhi⟩ := abs_le.1 (hreceived.trans (mul_le_mul_of_nonneg_left hsum (by norm_num)))
    obtain ⟨hp0, hp1⟩ := normalise_exactRational_mem p
    have hvlo : -(1 / 2) ≤ v := by linarith
    have hvhi : v ≤ 3 / 2 := by linarith
    exact ⟨hvlo, hvhi, abs_sub_round01_le hvlo hvhi tie⟩

end

/-! ## Where the error goes -/

/-- The tap's target from pixel `i` is in the image. -/
def reachesImage (W H mid i : Nat) (t : Tap ℚ) : Bool := (tapTarget W H mid (i / W) (i % W) t.row t.col).isSome

/-- The part of the error `e` of pixel `i` that goes to targets in the image. -/
def sentError (W H mid i : Nat) (e : ℚ) (taps : List (Tap ℚ)) : ℚ :=
  ((taps.filter (reachesImage W H mid i)).map (fun t => e * t.weight)).sum

/-- The part of it that is lost off the edge. -/
def lostError (W H mid i : Nat) (e : ℚ) (taps : List (Tap ℚ)) : ℚ :=
  ((taps.filter (fun t => !reachesImage W H mid i t)).map (fun t => e * t.weight)).sum

/-- Every tap either sends its share of the error into the image or loses it. -/
theorem sentError_add_lostError (W H mid i : Nat) (e : ℚ) (taps : List (Tap ℚ)) :
    sentError W H mid i e taps + lostError W H mid i e taps = e * (taps.map (fun t => t.weight)).sum := by
  rw [← List.sum_map_mul_left]
  simpa [sentError, lostError] using
    List.sum_map_filter_add_sum_map_filter_not (fun t => reachesImage W H mid i t = true) (fun t => e * t.weight) taps

theorem sentError_cons_of_reaches {W H mid i : Nat} {t : Tap ℚ} (h : reachesImage W H mid i t = true) (e : ℚ)
    (ts : List (Tap ℚ)) : sentError W H mid i e (t :: ts) = e * t.weight + sentError W H mid i e ts := by
  rw [sentError, List.filter_cons_of_pos h, List.map_cons, List.sum_cons, sentError]

theorem sentError_cons_of_not_reaches {W H mid i : Nat} {t : Tap ℚ} (h : ¬ reachesImage W H mid i t = true) (e : ℚ)
    (ts : List (Tap ℚ)) : sentError W H mid i e (t :: ts) = sentError W H mid i e ts := by
  rw [sentError, List.filter_cons_of_neg h, sentError]

/-- Adding to one entry at or after place `n` adds to the sum from there. -/
theorem sum_drop_modify_add {l : List ℚ} {n i : Nat} (hn : n ≤ i) (hi : i < l.length) (d : ℚ) :
    ((l.modify i (fun a => a + d)).drop n).sum = (l.drop n).sum + d := by
  induction l generalizing n i with
  | nil => simp at hi
  | cons a l ih =>
    cases i with
    | zero =>
      obtain rfl : n = 0 := by omega
      simp [add_right_comm]
    | succ i =>
      cases n with
      | zero => simpa [add_assoc] using ih (n := 0) (i := i) (by omega) (by simpa using hi)
      | succ n => simpa using ih (n := n) (i := i) (by omega) (by simpa using hi)

/-- Spreading an error forwards adds what is sent, once, to the pixels still to come. -/
theorem sum_drop_spread {W H mid i n : Nat} (e : ℚ) {taps : List (Tap ℚ)} {acc : List ℚ} (hacc : acc.length = W * H)
    (hlater : ∀ t ∈ taps, ∀ j, tapTarget W H mid (i / W) (i % W) t.row t.col = some j → n ≤ j) :
    ((spread exactRational W H mid (i / W) (i % W) e taps acc).drop n).sum =
      (acc.drop n).sum + sentError W H mid i e taps := by
  induction taps generalizing acc with
  | nil => simp [spread, sentError]
  | cons t ts ih =>
    obtain ⟨ht, hts⟩ := List.forall_mem_cons.1 hlater
    rw [spread]
    cases htarget : tapTarget W H mid (i / W) (i % W) t.row t.col with
    | none =>
      rw [sentError_cons_of_not_reaches (by simp [reachesImage, htarget])]
      exact ih hacc hts
    | some j =>
      obtain ⟨hj, -⟩ := tapTarget_row_col htarget
      have hmodify := sum_drop_modify_add (ht j htarget) (hacc.symm ▸ hj) (e * t.weight)
      have hrest := ih (acc := acc.modify j (fun a => a + e * t.weight)) (by simpa using hacc) hts
      rw [hmodify] at hrest
      rw [sentError_cons_of_reaches (by simp [reachesImage, htarget]), ← add_assoc]
      exact hrest

/-- What the samples gain over the values they start from is what their sources send (R115, R120). -/
theorem sum_scan_exactRational {W H mid : Nat} {taps : List (Tap ℚ)} (tie : Bool)
    (hcells : ∀ t ∈ taps, 1 ≤ t.row ∨ (t.row = 0 ∧ mid < t.col)) {k i : Nat} {acc : List ℚ}
    (hacc : acc.length = W * H) (hk : i + k = W * H) :
    ((scan exactRational W H mid taps tie k i acc).map (fun vb => vb.1)).sum =
      (acc.drop i).sum +
        (((scan exactRational W H mid taps tie k i acc).zipIdx i).map
          (fun src => sentError W H mid src.2 (sourceError src) taps)).sum := by
  induction k generalizing i acc with
  | zero => simp [scan, List.drop_eq_nil_of_le, hacc, ← hk]
  | succ k ih =>
    have hi : i < acc.length := by omega
    have hv : acc[i] = acc.getD i (exactRational.num 0) := by simp [List.getD_eq_getElem?_getD, hi]
    rw [scan_succ exactRational W H mid taps tie k i acc _ hv, residual_exactRational]
    have hrest := ih (i := i + 1)
      (acc := spread exactRational W H mid (i / W) (i % W)
        (acc[i] - ((round01 exactRational acc[i] tie).toNat : ℚ)) taps acc)
      (by rw [spread_length, hacc]) (by omega)
    rw [sum_drop_spread _ hacc fun t ht j hj => lt_tapTarget (hcells t ht) hj] at hrest
    rw [List.zipIdx_cons, List.map_cons, List.map_cons, List.sum_cons, List.sum_cons, hrest,
      ← List.cons_getElem_drop_succ (h := hi), List.sum_cons, sourceError]
    ring

/-- The samples of an image gain over its normalised intensities what their sources send. -/
theorem sum_samples_exactRational {W H mid : Nat} {taps : List (Tap ℚ)} (tie : Bool) {px : List Byte}
    (hpx : px.length = W * H) (hcells : ∀ t ∈ taps, 1 ≤ t.row ∨ (t.row = 0 ∧ mid < t.col)) :
    ((diffusePixels exactRational W H mid taps tie px).map (fun vb => vb.1)).sum =
      (px.map (fun p => (p.toNat : ℚ) / 255)).sum +
        ((diffusePixels exactRational W H mid taps tie px).zipIdx.map
          (fun src => sentError W H mid src.2 (sourceError src) taps)).sum :=
  sum_scan_exactRational tie hcells (by rw [List.length_map, hpx]) (Nat.zero_add _)

theorem sum_map_fst_zipIdx (l : List (ℚ × Bool)) :
    (l.zipIdx.map (fun src => src.1.1)).sum = (l.map (fun vb => vb.1)).sum := by
  conv_rhs => rw [← List.zipIdx_map_fst 0 l, List.map_map]
  rfl

end Sys2Proof.Machine
end

section
/-! The claims about the scan in exact arithmetic. -/

namespace Sys2Proof.Machine

/-- Settles O19: every sample of the run is one of those `exact_sample_bounded` speaks of. -/
theorem exactSamplesBounded : Obligations.ExactSamplesBounded := by
  intro W H mid taps tie px hpx hw hsum vb hvb
  obtain ⟨j, hj⟩ := List.mem_iff_getElem?.1 hvb
  exact exact_sample_bounded hpx hw hsum j hj

/-- Settles O20: each source's error is split over its taps, and the samples gain what is sent. -/
theorem errorAccounting : Obligations.ErrorAccounting := by
  intro W H mid taps tie px out hpx hcells hout e inImage sent lost S
  have hbalance (src : (ℚ × Bool) × Nat) : e src - sent src - lost src = (1 - S) * e src := by
    have hsplit : sent src + lost src = e src * S := sentError_add_lostError W H mid src.2 (e src) taps
    linarith
  refine ⟨fun src _ => hbalance src, ?_, ?_⟩
  · have hsum : (out.map e).sum = (out.map sent).sum + (out.map lost).sum + (1 - S) * (out.map e).sum := by
      rw [← List.sum_map_mul_left, ← List.sum_map_add, ← List.sum_map_add]
      exact congrArg List.sum (List.map_congr_left fun src _ => by linarith [hbalance src])
    linarith
  · rw [hout, sum_map_fst_zipIdx, sum_samples_exactRational tie hpx hcells]
    exact add_sub_cancel_left _ _

/-- Settles O21: the scan evaluated in exact rationals. -/
theorem workedExampleExact : Obligations.WorkedExampleExact := by
  unfold Obligations.WorkedExampleExact
  decide +kernel

end Sys2Proof.Machine
end

section
/-! SUPPORT. What ORDERED answers where depth, size and matrix side are legal (spec/41_ordered_dither.md R130 to R134). -/

namespace Sys2Proof.Machine

/-- The four checks of ORDERED pass, and draw no free value. -/
theorem validate_ordered_of_legal {P : Params} {s : State} (h : s.DepthLegal) (h' : s.SizeLegal P)
    (ht : s.ThresholdLegal P) : validate P .ordered s = (none, s.fresh) := by
  rw [validate_of_size h h' rfl, runChecks_cons]
  simp only [runChk, chkT_none.2 ht, runChecks_nil]

/-- The bilevel result of the comparison is L1 where the pixel is strictly above its threshold, else 0. -/
theorem bilevel_exceeds (s : State) (p t : Byte) :
    s.bilevel (exceeds p t) = if t.toNat < p.toNat then BitVec.ofNat 2 (2 ^ s.BPP - 1) else 0#2 := by
  simp only [bilevel_eq, exceeds, decide_eq_true_eq]

/-- Where the checks pass, ORDERED overlays QBUF with the results of its loop and completes. -/
theorem exec_ordered_of_valid {s : State} (h : validate Config.params .ordered s = (none, s.fresh)) :
    ∃ t, exec .ordered s = .next t ∧ t = { s.completed with qbuf := t.qbuf, fresh := t.fresh } ∧
      (∀ i < s.N, Mem.cell t.qbuf i = (orderedFrom Config.params s s.N 0 s.fresh).1[i]?) ∧
      ∀ i, s.N ≤ i → Mem.cell t.qbuf i = Mem.cell s.qbuf i := by
  have hlen : (orderedFrom Config.params s s.N 0 s.fresh).1.length = s.N := orderedFrom_length _ _ _ _ _
  refine ⟨_, exec_of_valid h, ?_, fun i hi => ?_, fun i hi => ?_⟩
  · simp only [commandWork, completeOk_eq_completed, Bool.or_false]; rfl
  · exact Mem.cell_overlay_lt (hlen.symm ▸ hi) _
  · exact Mem.cell_overlay_ge (hlen.symm ▸ hi) _

end Sys2Proof.Machine
end

section
/-! The claim about the command ORDERED. -/

namespace Sys2Proof.Machine

/-- Settles O11: each cell below N holds the comparison that the loop makes of its pixel. -/
theorem orderedResult : Obligations.OrderedResult := by
  intro s h h' ht
  obtain ⟨t, hexec, hframe, hcells, hrest⟩ := exec_ordered_of_valid (validate_ordered_of_legal h h' ht)
  refine ⟨t, hexec, hframe, fun i hi => ?_, hrest⟩
  obtain ⟨p, th, hp, hth, hvalue⟩ := orderedFrom_value Config.params s s.N 0 s.fresh i hi
  rw [Nat.zero_add] at hp hth
  exact ⟨p, th, hp, hth, by rw [hcells i hi, hvalue, bilevel_exceeds]⟩

end Sys2Proof.Machine
end

section
/-! SUPPORT. What QUANTIZE answers where depth and size are legal (spec/42_quantizer.md R140 to R142). -/

namespace Sys2Proof.Machine

/-! ## The palette look-up -/

/-- The top bits of an intensity fit a cell of QBUF at every depth of at most 2, so the look-up keeps them all (R141). -/
theorem paletteLut_toNat {bpp : Nat} (h : bpp ≤ 2) (p : Byte) :
    (paletteLut bpp p).toNat = p.toNat / 2 ^ (8 - bpp) := by
  have hfits : p.toNat < 2 ^ (8 - bpp) * 2 ^ 2 := calc
    p.toNat < 2 ^ 8 := p.isLt
    _ ≤ 2 ^ (8 - bpp + 2) := Nat.pow_le_pow_right (by decide) (by omega)
    _ = 2 ^ (8 - bpp) * 2 ^ 2 := Nat.pow_add 2 (8 - bpp) 2
  rw [paletteLut, BitVec.toNat_ofNat, Nat.shiftRight_eq_div_pow, Nat.mod_eq_of_lt (Nat.div_lt_of_lt_mul hfits)]

/-! ## The command -/

/-- The three checks of QUANTIZE pass, and draw no free value. -/
theorem validate_quantize_of_legal {P : Params} {s : State} (h : s.DepthLegal) (h' : s.SizeLegal P) :
    validate P .quantize s = (none, s.fresh) := by
  rw [validate_of_size h h' rfl, runChecks_nil]

/-- A completion that has overlaid QBUF with one value for each pixel: its frame, and the cells of QBUF. -/
theorem completeOk_overlay {s t : State} {n : Nat} {vs : List QVal} (hlen : vs.length = s.N)
    (ht : t = ((s.withFresh n).withQbuf (Mem.overlay vs s.qbuf)).completeOk false) :
    t = { s.completed with qbuf := t.qbuf, fresh := t.fresh } ∧
      (∀ i < s.N, Mem.cell t.qbuf i = vs[i]?) ∧ ∀ i, s.N ≤ i → Mem.cell t.qbuf i = Mem.cell s.qbuf i := by
  subst ht
  refine ⟨?_, fun i hi => Mem.cell_overlay_lt (hlen ▸ hi) _, fun i hi => Mem.cell_overlay_ge (hlen ▸ hi) _⟩
  simp only [completeOk_eq_completed, Bool.or_false]
  rfl

/-- QUANTIZE with a legal depth and size completes, and writes the look-up of each pixel it reads. -/
theorem exec_quantize_of_legal {s : State} (h : s.DepthLegal) (h' : s.SizeLegal Config.params) :
    ∃ t, exec .quantize s = .next t ∧ t = { s.completed with qbuf := t.qbuf, fresh := t.fresh } ∧
      (∀ i < s.N, Mem.cell t.qbuf i = (s.pixelsRead[i]?).map (paletteLut s.BPP)) ∧
      ∀ i, s.N ≤ i → Mem.cell t.qbuf i = Mem.cell s.qbuf i := by
  obtain ⟨hframe, hcells, hrest⟩ := completeOk_overlay (quantizeValues_length s) rfl
  refine ⟨_, exec_of_valid (validate_quantize_of_legal h h'), hframe, fun i hi => ?_, hrest⟩
  exact (hcells i hi).trans List.getElem?_map

end Sys2Proof.Machine
end

section
/-! The claims about the command QUANTIZE and its palette look-up. -/

namespace Sys2Proof.Machine

/-- Settles O9: each cell below N holds the look-up of the pixel read there, which is the pixel's top bits. -/
theorem quantizeResult : Obligations.QuantizeResult := by
  intro s h h'
  obtain ⟨t, hexec, hframe, hcells, hrest⟩ := exec_quantize_of_legal h h'
  refine ⟨t, hexec, hframe, fun i hi => ?_, hrest⟩
  have hlt : i < s.pixelsRead.length := s.pixelsRead_length.symm ▸ hi
  obtain ⟨p, hread⟩ : ∃ p, s.pixelsRead[i]? = some p := ⟨_, List.getElem?_eq_getElem hlt⟩
  refine ⟨p, paletteLut s.BPP p, fun b hb => ?_, ?_, paletteLut_toNat ?_ p⟩
  · exact Option.some.inj (hread.symm.trans (State.pixelsRead_getElem? hi hb))
  · rw [hcells i hi, hread, Option.map_some]
  · rcases h with h | h <;> omega

/-- Settles O10: at each depth the three readings are one quotient of p, since the cut points of the bins fall between
the same integers (R142). -/
theorem paletteIsEqualWidthBins : Obligations.PaletteIsEqualWidthBins := by
  intro p bpp h
  have hp : p.toNat < 2 ^ 8 := p.isLt
  rw [Nat.shiftRight_eq_div_pow, paletteLut_toNat (by omega)]
  rcases h with rfl | rfl
  · refine ⟨?_, ?_, rfl⟩ <;> omega
  · refine ⟨?_, ?_, rfl⟩ <;> omega

end Sys2Proof.Machine
end

section
/-! SUPPORT. What PACK answers where depth and size are legal: the error of CHK_PAD, CHK_GROUP or CHK_QRANGE, or the
record, its fields read as the values of the pixels; and UNPACK of a byte whose field is known (spec/43_bit_packer.md
R150 to R157, spec/60_exceptions.md R191, R192). -/

namespace Sys2Proof.Machine

/-! ## The values packed -/

/-- What PACK packs as pixel i: the value it reads there, and the pad value L1 past the values it reads. -/
def State.packedValue (s : State) (i : Nat) : QVal := (packedValues s).1.getD i s.L1

theorem qbuf_written_of_legal {s : State} (h : s.QbufLegal) : ∀ i < s.N, ∃ q : QVal, Mem.cell s.qbuf i = some q :=
  fun i hi => (h i hi).imp fun _ hq => hq.1

theorem State.packedValue_cell {s : State} (h : s.QbufLegal) {i : Nat} (hi : i < min s.N (s.packedBytes * s.G)) :
    Mem.cell s.qbuf i = some (s.packedValue i) := by
  obtain ⟨q, hq⟩ := qbuf_written_of_legal h i (by omega)
  obtain ⟨-, hread⟩ := packedValues_written (qbuf_written_of_legal h)
  rw [State.packedValue, List.getD_eq_getElem?_getD, hread i hi, hq, Option.getD_some]

theorem State.packedValue_pad {s : State} {i : Nat} (hi : min s.N (s.packedBytes * s.G) ≤ i) :
    s.packedValue i = s.L1 :=
  List.getD_eq_default _ _ (by rwa [packedValues, Mem.readRange_length])

/-- At BPP 1 every value packed is a bit: CHK_QRANGE bounds those of QBUF, and L1 is 1. -/
theorem State.packedValue_le_one {s : State} (h : s.QbufLegal) (hbpp : s.BPP = 1) (i : Nat) :
    (s.packedValue i).toNat ≤ 1 := by
  by_cases hi : i < min s.N (s.packedBytes * s.G)
  · obtain ⟨q, hq, hle⟩ := h i (by omega)
    rw [Option.some.inj ((State.packedValue_cell h hi).symm.trans hq)]
    exact hle hbpp
  · rw [State.packedValue_pad (by omega), State.L1, State.L, hbpp]
    decide

/-! ## The record -/

/-- Byte `k` of the record that PACK writes. -/
def State.recordByte (s : State) (k : Nat) : Byte := packByte s.BPP s.L1 (packedValues s).1 k

/-- The field of pixel j of a group in its byte (R151 to R153). -/
theorem State.recordByte_field {s : State} (h : s.DepthLegal) (hq : s.QbufLegal) (k : Nat) {j : Nat} (hj : j < s.G) :
    (s.recordByte k).toNat / 2 ^ (8 - s.BPP * (j + 1)) % 2 ^ s.BPP =
      if s.BPP = 2 then 3 - (s.packedValue (k * s.G + j)).toNat else (s.packedValue (k * s.G + j)).toNat :=
  packByte_field h _ _ _ _ hj fun hbpp _ _ => State.packedValue_le_one hq hbpp _

theorem packedRecord_getElem? {s : State} {k : Nat} (hk : k < s.packedBytes) :
    (packedRecord s)[k]? = some (s.recordByte k) := by
  rw [packedRecord, List.getElem?_map, List.getElem?_range hk]
  rfl

/-- PACK with legal operands completes, and overlays OUT with the record (R150, R155, R156). -/
theorem exec_pack_of_legal {s : State} (h : s.DepthLegal) (h' : s.SizeLegal Config.params) (hp : s.PackLegal)
    (hq : s.QbufLegal) :
    exec .pack s = .next { s.completed with
      out := Mem.overlay (packedRecord s) s.out, outlen := BitVec.ofNat 32 s.packedBytes,
      warn := s.warn || s.packWarns } := by
  obtain ⟨hfresh, -⟩ := packedValues_written (qbuf_written_of_legal hq)
  rw [exec_of_valid (validate_pack_of_legal h h' hp hq), withFresh_self, commandWork, completeOk_eq_completed,
    State.packCore, hfresh]
  rfl

theorem packedBytes_of_padded {s : State} (hrem : s.N % s.G ≠ 0) (hpad : s.PAD = 1) :
    s.packedBytes = s.N / s.G + 1 := by rw [State.packedBytes, if_pos ⟨hrem, hpad⟩]

theorem packedBytes_of_not_padded {s : State} (h : ¬ (s.N % s.G ≠ 0 ∧ s.PAD = 1)) : s.packedBytes = s.N / s.G := by
  rw [State.packedBytes, if_neg h, Nat.add_zero]

theorem packWarns_eq_true {s : State} (hrem : s.N % s.G ≠ 0) : s.packWarns = true := decide_eq_true hrem

theorem packWarns_eq_false {s : State} (hrem : s.N % s.G = 0) : s.packWarns = false :=
  decide_eq_false fun hne => hne hrem

/-- The length of the record fits OUTLEN (R41, R156). -/
theorem packedBytes_toNat {s : State} (h : s.DepthLegal) (h' : s.SizeLegal Config.params) :
    (BitVec.ofNat 32 s.packedBytes).toNat = s.packedBytes := by
  have hle := packedBytes_le Config.params s Config.params_wf h h'
  obtain ⟨_, _, _, _, _, _, hcap, _⟩ := Params.wf_bounds Config.params_wf
  rw [BitVec.toNat_ofNat]
  omega

/-- What a successful PACK leaves in OUTLEN and WARN (R155, R156). -/
theorem exec_pack_outlen_warn {s : State} (h : s.DepthLegal) (h' : s.SizeLegal Config.params) (hp : s.PackLegal)
    (hq : s.QbufLegal) {t : State} (ht : exec .pack s = .next t) :
    t.outlen.toNat = s.packedBytes ∧ t.warn = (s.warn || s.packWarns) := by
  rw [exec_pack_of_legal h h' hp hq] at ht
  injection ht with ht
  subst ht
  exact ⟨packedBytes_toNat h h', rfl⟩

/-! ## The checks that fail -/

/-- An error of a check that has drawn no free value is all that the command records. -/
theorem exec_of_error_fresh {i : Instr} {s : State} {e : CmdError}
    (h : validate Config.params i s = (some e, s.fresh)) :
    exec i s = .next (s.recordedError e.code.code e.info e.arg) :=
  exec_of_error_recorded h

theorem validate_pack_of_reservedPad {P : Params} {s : State} (h : s.DepthLegal) (h' : s.SizeLegal P)
    (hpad : s.PAD = 3) :
    validate P .pack s = (some ⟨.invalidPadMode, csrInfo .cfg, 3#32⟩, s.fresh) := by
  rw [validate_of_size h h' rfl, runChecks_cons]
  simp only [runChk, chkPad, if_pos hpad]

theorem validate_pack_of_rejectedGroup {P : Params} {s : State} (h : s.DepthLegal) (h' : s.SizeLegal P)
    (hpad : s.PAD = 0) (hrem : s.N % s.G ≠ 0) :
    validate P .pack s = (some ⟨.incompletePackGroup, csrInfo .cfg, BitVec.ofNat 32 s.N⟩, s.fresh) := by
  have hpass : chkPad s = none := chkPad_none.2 (by omega)
  rw [validate_of_size h h' rfl, runChecks_cons, runChecks_cons]
  simp only [runChk, hpass, chkGroup, if_pos (And.intro hrem hpad)]

/-- CHK_QRANGE, the last check of PACK, fails at the least index whose value is above 1. -/
theorem validate_pack_of_overOne {P : Params} {s : State} {i : Nat} {q : QVal} (hbpp : s.BPP = 1) (h' : s.SizeLegal P)
    (hp : s.PackLegal) (hi : i < s.N) (hq : Mem.cell s.qbuf i = some q) (hgt : 1 < q.toNat)
    (hbelow : ∀ j < i, ∃ q' : QVal, Mem.cell s.qbuf j = some q' ∧ q'.toNat ≤ 1) :
    validate P .pack s = (some ⟨.qvalueRange, memoryInfo, BitVec.ofNat 32 i⟩, s.fresh) := by
  have hfirst : firstOverOne s s.N 0 s.fresh = (some i, s.fresh) :=
    firstOverOne_some (Nat.zero_le i) (by omega) (fun j _ hj => hbelow j hj) hq hgt
  rw [validate_of_size (.inl hbpp) h' rfl, runChecks_cons, runChecks_cons, runChecks_cons]
  simp only [runChk, chkPad_none.2 hp.1, chkGroup_none_of_legal hp, chkQrange, if_pos hbpp, hfirst]

/-! ## UNPACK -/

/-- The inversion of R153 undone: against its width a field is its complement. -/
theorem three_sub_xor_three (v : QVal) : (3 - v.toNat) ^^^ 3 = v.toNat := by
  revert v; decide

/-- UNPACK reads a value back from the field that PACK makes of it (R153, R157). -/
theorem unpackValue_of_field {bpp : Nat} (h : bpp = 1 ∨ bpp = 2) {record : Nat → Byte} {i : Nat} {v : QVal}
    (hfield : (record (i / (8 / bpp))).toNat / 2 ^ (8 - bpp * (i % (8 / bpp) + 1)) % 2 ^ bpp =
      if bpp = 2 then 3 - v.toNat else v.toNat) :
    unpackValue bpp record i = v.setWidth 8 := by
  have hmask : (BitVec.ofNat 8 (2 ^ bpp - 1)).toNat = 2 ^ bpp - 1 := by rcases h with rfl | rfl <;> rfl
  apply BitVec.eq_of_toNat_eq
  rw [unpackValue, BitVec.toNat_xor, BitVec.toNat_and, BitVec.toNat_ushiftRight, hmask, Nat.and_two_pow_sub_one_eq_mod,
    Nat.shiftRight_eq_div_pow, hfield, BitVec.toNat_setWidth_of_le (by decide)]
  rcases h with rfl | rfl
  · exact Nat.xor_zero _
  · exact three_sub_xor_three v

end Sys2Proof.Machine
end

section
/-! The claims about the command PACK. -/

namespace Sys2Proof.Machine

/-- Settles O23: the state is that of `exec_pack_of_legal`, and each byte holds the fields of `recordByte_field`. -/
theorem packResult : Obligations.PackResult := by
  intro s h h' hp hq G nb
  have hlen : (packedRecord s).length = nb := packedRecord_length s
  refine ⟨_, exec_pack_of_legal h h' hp hq, rfl, fun k hk => ⟨s.recordByte k, ?_, fun j hj => ?_⟩, fun k hk => ?_⟩
  · exact (Mem.cell_overlay_lt (hlen.symm ▸ hk) _).trans (packedRecord_getElem? hk)
  · refine ⟨s.packedValue (k * G + j), ?_, State.recordByte_field h hq k hj⟩
    have hlt : k * G + j < nb * G := calc
      k * G + j < (k + 1) * G := by rw [Nat.succ_mul]; omega
      _ ≤ nb * G := Nat.mul_le_mul_right G hk
    split
    · next hN => exact State.packedValue_cell hq (lt_min hN hlt)
    · next hN => exact State.packedValue_pad ((min_le_left _ _).trans (Nat.le_of_not_lt hN))
  · exact Mem.cell_overlay_ge (hlen.symm ▸ hk) _

/-- Settles O24: with no partial group every pixel below N has its field in a byte of the record, and UNPACK reads that
field. -/
theorem unpackAfterPackIsIdentity : Obligations.UnpackAfterPackIsIdentity := by
  intro s h h' hpad hN hq
  obtain ⟨t, hexec, -, hbytes, -⟩ := packResult s h h' ⟨hpad, .inl hN⟩ hq
  refine ⟨t, hexec, fun i hi q hcell => unpackValue_of_field h ?_⟩
  have hG : 0 < 8 / s.BPP := by rcases h with h | h <;> rw [h] <;> decide
  have hk : i / (8 / s.BPP) < s.N / (8 / s.BPP) := Nat.div_lt_div_of_lt_of_dvd (Nat.dvd_of_mod_eq_zero hN) hi
  obtain ⟨byte, hbyte, hfields⟩ := hbytes (i / (8 / s.BPP)) (Nat.lt_add_right _ hk)
  obtain ⟨v, hv, hfield⟩ := hfields (i % (8 / s.BPP)) (Nat.mod_lt _ hG)
  rw [Nat.div_add_mod', if_pos hi] at hv
  obtain rfl : q = v := Option.some.inj (hcell.symm.trans hv)
  simpa only [hbyte, Option.getD_some] using hfield

/-- Settles O25: PADMODE 3, and 0 with a partial group, fail a check of PACK; the three other cases are successes, with
the record's length and the pad fields of the last byte as `packResult` gives them. -/
theorem partialGroupByPadMode : Obligations.PartialGroupByPadMode := by
  intro s h h' hq G
  refine ⟨fun hrem hpad => ?reject, fun hrem hpad => ?padded, fun hrem hpad => ?truncated, fun hrem hpad => ?whole,
    fun hpad => ?reserved⟩
  case reject => exact exec_of_error_fresh (validate_pack_of_rejectedGroup h h' hpad hrem)
  case reserved => exact exec_of_error_fresh (validate_pack_of_reservedPad h h' hpad)
  case padded =>
    have hp : s.PackLegal := ⟨by omega, .inr (by omega)⟩
    obtain ⟨t, hexec, -, hbytes, -⟩ := packResult s h h' hp hq
    obtain ⟨hlen, hwarn⟩ := exec_pack_outlen_warn h h' hp hq hexec
    have hnb : s.packedBytes = s.N / G + 1 := packedBytes_of_padded hrem hpad
    obtain ⟨byte, hbyte, hfields⟩ := hbytes (s.N / G) (Nat.lt_of_lt_of_eq (Nat.lt_succ_self _) hnb.symm)
    refine ⟨t, hexec, hlen.trans hnb, by rw [hwarn, packWarns_eq_true hrem, Bool.or_true], byte, hbyte, ?_⟩
    intro j hlo hj
    obtain ⟨v, hv, hfield⟩ := hfields j hj
    have hpast : ¬ s.N / G * G + j < s.N := by
      have hdiv : s.N / G * G + s.N % G = s.N := Nat.div_add_mod' s.N G
      omega
    rw [hfield, (if_neg hpast).mp hv]
    rcases h with h | h <;> rw [h] <;> decide
  case truncated =>
    have hp : s.PackLegal := ⟨by omega, .inr (by omega)⟩
    obtain ⟨t, hexec, -, -, hrest⟩ := packResult s h h' hp hq
    obtain ⟨hlen, hwarn⟩ := exec_pack_outlen_warn h h' hp hq hexec
    have hnb : s.packedBytes = s.N / G := packedBytes_of_not_padded (by omega)
    refine ⟨t, hexec, hlen.trans hnb, by rw [hwarn, packWarns_eq_true hrem, Bool.or_true], fun k hk => ?_⟩
    exact hrest k (hnb.le.trans hk)
  case whole =>
    have hp : s.PackLegal := ⟨hpad, .inl hrem⟩
    have hexec := exec_pack_of_legal h h' hp hq
    obtain ⟨hlen, hwarn⟩ := exec_pack_outlen_warn h h' hp hq hexec
    have hnb : s.packedBytes = s.N / G := packedBytes_of_not_padded fun hpadded => hpadded.1 hrem
    exact ⟨_, hexec, hlen.trans hnb, by rw [hwarn, packWarns_eq_false hrem, Bool.or_false]⟩

/-- Settles O36: CHK_QRANGE is the last check of PACK, and the others pass. -/
theorem qvalueRangeReported : Obligations.QvalueRangeReported := by
  intro s i q hbpp h' hp hi hq hgt hbelow
  exact exec_of_error_fresh (validate_pack_of_overOne hbpp h' hp hi hq hgt hbelow)

end Sys2Proof.Machine
end

section
/-! SUPPORT. The engine's turn, the completion of every command, and what a step makes of the agenda
(spec/44_control_commands.md R171 to R175; spec/70_reset_and_hazards.md R231, R232). -/

namespace Sys2Proof.Machine

/-! ## The engine's turn -/

section
variable {P : Params} {run : Instr → State → Host.Outcome State Fault Refusal} {s t : State}

/-- While BUSY is 1 the engine runs the command that PENDING decodes to. -/
theorem engineTurn_of_decoded {w : Word} {i : Instr} (hb : s.busy = true) (hp : s.pending = some w)
    (hd : decodeWord w = .ok i) : engineTurn run s = run i s := by
  simp [engineTurn, hb, hp, hd]

theorem engineTurn_of_idle (hidle : s.busy = false) : engineTurn run s = .next s := by
  simp [engineTurn, hidle]

/-- The engine's event, as the head of the agenda, is its turn with the event taken off. -/
theorem turn_engine {rest : List Event} (h : s.agenda = .engine :: rest) :
    turn P run s = engineTurn run (s.withAgenda rest) := turn_cons h

end

/-! ## Completion -/

/-- The work of every command ends in a successful completion. -/
theorem commandWork_completes (P : Params) (i : Instr) (s : State) :
    ∃ (s' : State) (warn : Bool), commandWork P i s = s'.completeOk warn := by
  cases i <;> exact ⟨_, _, rfl⟩

/-- Every command ends in a completion, with the error of a check or with success (R172). -/
theorem exec_completes (i : Instr) (s : State) :
    ∃ (s' : State) (code info : Byte) (arg : Word) (warn : Bool),
      exec i s = .next (s'.complete code info arg warn) := by
  rcases hv : validate Config.params i s with ⟨_ | e, n⟩
  · obtain ⟨s', warn, hwork⟩ := commandWork_completes Config.params i (s.withFresh n)
    exact ⟨s', _, _, _, warn, by rw [exec_of_valid hv, hwork]; rfl⟩
  · exact ⟨_, _, _, _, _, exec_of_error hv⟩

/-- A command that ends with an error code has recorded the error, whose free values are drawn, and nothing else. -/
theorem exec_errcode_ne_zero {i : Instr} {s t : State} (h : exec i s = .next t) (hc : t.errcode ≠ 0#8) :
    t = (s.recordedError t.errcode t.errinfo t.errarg).withFresh t.fresh := by
  rcases exec_cases h with ⟨e, n, -, rfl⟩ | ⟨n, -, rfl⟩
  · exact complete_of_error e.code.code_ne_zero _ _ _
  · obtain ⟨s', warn, hwork⟩ := commandWork_completes Config.params i (s.withFresh n)
    rw [hwork] at hc
    exact absurd rfl hc

/-- The same of the engine's step, on an illegal word too. -/
theorem engineStep_errcode_ne_zero {s t : State} (hb : s.busy = true) (h : engineStep s = .next t)
    (hc : t.errcode ≠ 0#8) : t = (s.recordedError t.errcode t.errinfo t.errarg).withFresh t.fresh := by
  rcases engineStep_busy h hb with ⟨i, -, he⟩ | ⟨w, rfl⟩
  · exact exec_errcode_ne_zero he hc
  · exact illegalCommand_eq_recordedError s w

/-! ## The agenda -/

theorem engineStep_agenda {s t : State} (h : engineStep s = .next t) : t.agenda = s.agenda := by
  rcases engineStep_cases h with ⟨-, rfl⟩ | ⟨w, i, -, -, -, he⟩ | ⟨w, e, -, -, -, rfl⟩
  · rfl
  · obtain ⟨-, -, -, hagenda, -⟩ := exec_frame he
    exact hagenda
  · rfl

theorem busRead_agenda (P : Params) (off n : Nat) (s : State) : (s.busRead P off n).agenda = s.agenda := by
  rw [busRead_frame]

theorem busWrite_agenda (P : Params) (off n : Nat) (v : Word) (s : State) :
    (s.busWrite P off n v).agenda = s.agenda := by
  rcases busWrite_cases P off n v s with ⟨-, ht⟩ | ⟨-, -, ht⟩ | ⟨-, -, ht⟩ | ⟨r, -, -, -, ht⟩ <;> rw [ht]
  · rfl
  · rfl
  · obtain ⟨-, -, -, -, -, -, -, hagenda, -⟩ := csrRegionWrite_frame s off v
    exact hagenda
  · rw [writeRegion_frame]; rfl

theorem hardReset_agenda (P : Params) (s : State) : (s.hardReset P).agenda = s.agenda := by
  rcases hardReset_cases P s with ht | ⟨w, i, -, -, -, ht⟩ <;> rw [ht]
  · rfl
  · rw [abandon_frame]; rfl

/-- A step takes the next event off the agenda and adds none. -/
theorem step_agenda {s t : State} (h : step s = .next t) : t.agenda = s.agenda.tail := by
  rcases step_cases h with ⟨-, he⟩ | ⟨off, n, rest, ha, rfl⟩ | ⟨off, n, v, rest, ha, rfl⟩ | ⟨rest, ha, rfl⟩
  · exact engineStep_agenda he
  · rw [busRead_agenda, ha]; rfl
  · rw [busWrite_agenda, ha]; rfl
  · rw [hardReset_agenda, ha]; rfl

/-- Where no event is to come, the step is the engine's and leaves BUSY 0. -/
theorem step_nil_busy {s t : State} (ha : s.agenda = []) (h : step s = .next t) : t.busy = false := by
  have he : engineStep s = .next t := (step_nil ha).symm.trans h
  cases hb : s.busy with
  | false => rw [engineStep_idle he hb, hb]
  | true =>
    obtain ⟨hbusy, -⟩ := engineStep_completes he hb
    exact hbusy

/-- A run of the machine, by its first step. -/
theorem core_run_succ {s t : State} (h : step s = .next t) (k : Nat) :
    Host.Core.run Sys2Proof.core (k + 1) s = Host.Core.run Sys2Proof.core k t := by
  have hstep : Sys2Proof.core.step s = .next t := h
  simp only [Host.Core.run, hstep]

end Sys2Proof.Machine
end

section
/-! The claims about the engine's step and the lifecycle of a command. -/

namespace Sys2Proof.Machine

/-- Settles O29: the step is the engine's from the state with its event taken off, and records the error alone. -/
theorem errorsLeaveOnlyTheStatus : Obligations.ErrorsLeaveOnlyTheStatus := by
  intro s t hb hturn h hc
  have hb' : (s.withAgenda s.agenda.tail).busy = true := hb
  exact engineStep_errcode_ne_zero hb' (engineStep_of_step h hturn) hc

/-- Settles O56, by induction on the events to come: each is a step that keeps the invariant, and the step after the
last is the engine's. -/
theorem busyEndsAfterTheAgenda : Obligations.BusyEndsAfterTheAgenda := by
  intro s h
  induction hn : s.agenda generalizing s with
  | nil =>
    obtain ⟨t, ht⟩ := invariantStatesStepOn s h
    exact ⟨t, core_run_succ ht 0, step_nil_busy hn ht, by rw [step_agenda ht, hn, List.tail_nil]⟩
  | cons e rest ih =>
    obtain ⟨t, ht⟩ := invariantStatesStepOn s h
    obtain ⟨hkept, -⟩ := invariantKeptByEveryStep
    have hrest : t.agenda = rest := by rw [step_agenda ht, hn, List.tail_cons]
    obtain ⟨u, hrun, hidle, hdone⟩ := ih t (hkept s t h ht) hrest
    exact ⟨u, (core_run_succ ht _).trans hrun, hidle, hdone⟩

/-- Settles O4: the step is the engine's turn, which runs the decoded command. -/
theorem stepRunsDecodedCommand : Obligations.StepRunsDecodedCommand := by
  intro s w i hb hp hd _
  refine ⟨fun ha => ?_, fun rest ha => ?_, stepOn_params s, fun P => ⟨fun ha => ?_, fun rest ha => ?_⟩⟩
  · exact (turn_nil ha).trans (engineTurn_of_decoded hb hp hd)
  · exact (turn_engine ha).trans (engineTurn_of_decoded (s := s.withAgenda rest) hb hp hd)
  · exact (turn_nil ha).trans (engineTurn_of_decoded hb hp hd)
  · exact (turn_engine ha).trans (engineTurn_of_decoded (s := s.withAgenda rest) hb hp hd)

/-- Settles O5: the step is the turn of an idle engine. -/
theorem idleEngineChangesNothing : Obligations.IdleEngineChangesNothing := by
  intro s hidle
  refine ⟨fun ha => ?_, fun rest ha => ?_⟩
  · exact (turn_nil ha).trans (engineTurn_of_idle hidle)
  · exact (turn_engine ha).trans (engineTurn_of_idle (s := s.withAgenda rest) hidle)

/-- Settles O30: every command ends in `complete`. -/
theorem everyCommandCompletes : Obligations.EveryCommandCompletes := by
  intro i s
  obtain ⟨s', code, info, arg, warn, hexec⟩ := exec_completes i s
  exact ⟨_, hexec, rfl, rfl, rfl⟩

/-- Settles O43: CMD is the register at 0x10, whose write accepts the word; while BUSY the window drops the write. -/
theorem cmdWriteAcceptsCommand : Obligations.CmdWriteAcceptsCommand := by
  intro s w rest ha
  refine ⟨fun hidle => step_of_csrWrite hidle .cmd rfl ha, fun hb => ?_⟩
  have hb' : (s.withAgenda rest).busy = true := hb
  have hadmitted : accessRegion Config.params (csrOffset .cmd) 4 ≠ none := by
    rw [accessRegion_csrOffset Config.params_wf]; exact Option.some_ne_none _
  exact (step_of_write ha).trans (congrArg Host.Outcome.next (busWrite_of_busy hb' hadmitted w))

end Sys2Proof.Machine
end

section
/-! The claims about the commands NOP and SOFTRESET. -/

namespace Sys2Proof.Machine

/-- Settles O7: NOP is a successful completion of the state itself. -/
theorem nopCompletes : Obligations.NopCompletes := by
  refine ⟨decodeWord_encode .nop, fun s => congrArg Host.Outcome.next ?_⟩
  rw [completeOk_eq_completed, Bool.or_false]
  rfl

/-- Settles O8: the registers that SOFTRESET clears before it completes, with those that a completion writes, are all the
control registers. -/
theorem softresetClearsRegisters : Obligations.SoftresetClearsRegisters := by
  intro s
  refine congrArg Host.Outcome.next ?_
  rw [completeOk_eq_completed]
  rfl

end Sys2Proof.Machine
end

section
/-! SUPPORT. What a reset takes from the command it abandons (spec/70_reset_and_hazards.md R222). -/

namespace Sys2Proof.Machine

/-- The agenda is nothing that a check reads. -/
theorem validate_withAgenda (P : Params) (i : Instr) (s : State) (l : List Event) :
    validate P i (s.withAgenda l) = validate P i s := validate_withBus P i s s.busywr l s.reply

/-- Abandoning a command whose checks pass takes QBUF below N where the command converts, and no other cell of it. -/
theorem abandon_qbuf_cell {P : Params} {i : Instr} {s : State} (h : (validate P i s).1 = none) (k : Nat) :
    Mem.cell (s.abandon P i).qbuf k =
      if (i = .diffuse ∨ i = .ordered ∨ i = .quantize ∨ i = .process) ∧ k < s.N then none
      else Mem.cell s.qbuf k := by
  obtain ⟨n, hv⟩ : ∃ n, validate P i s = (none, n) := ⟨_, Prod.ext h rfl⟩
  rw [State.abandon, hv]
  cases i <;> simp [Mem.cell_unwrite]

/-- It takes OUT below the record's length where the command packs, and no other cell of it. -/
theorem abandon_out_cell {P : Params} {i : Instr} {s : State} (h : (validate P i s).1 = none) (k : Nat) :
    Mem.cell (s.abandon P i).out k =
      if (i = .pack ∨ i = .process) ∧ k < s.packedBytes then none else Mem.cell s.out k := by
  obtain ⟨n, hv⟩ : ∃ n, validate P i s = (none, n) := ⟨_, Prod.ext h rfl⟩
  rw [State.abandon, hv]
  cases i <;> simp [Mem.cell_unwrite]

end Sys2Proof.Machine
end

section
/-! The claim about a reset while a command is pending. -/

namespace Sys2Proof.Machine

/-- Settles O52: the reset abandons the command that PENDING holds, and clearing the registers keeps the memories. -/
theorem resetAbandonsTheCommand : Obligations.ResetAbandonsTheCommand := by
  intro s rest i ha hb hp hv nb
  have hv' : (validate Config.params i (s.withAgenda rest)).1 = none := by rw [validate_withAgenda, hv]
  have hreset : (s.withAgenda rest).hardReset Config.params =
      ((s.withAgenda rest).abandon Config.params i).clearRegisters :=
    hardReset_of_pending _ hb hp (decodeWord_encode i)
  exact ⟨_, (step_of_rst ha).trans (congrArg Host.Outcome.next hreset), rfl, rfl, abandon_qbuf_cell hv',
    abandon_out_cell hv'⟩

end Sys2Proof.Machine
end

section
/-! SUPPORT. PROCESS as the conversion that MODE selects, then the packing (spec/44_control_commands.md R177 to R179). -/

namespace Sys2Proof.Machine

/-! ## The values a conversion writes -/

/-- L1 and 0 are values of the depth (R117, R134). -/
theorem bilevel_lt {s : State} (h : s.DepthLegal) (b : Bool) : (s.bilevel b).toNat < 2 ^ s.BPP := by
  rw [bilevel_eq]
  rcases h with h | h <;> rw [h] <;> cases b <;> decide

theorem paletteLut_lt {bpp : Nat} (h : bpp ≤ 2) (p : Byte) : (paletteLut bpp p).toNat < 2 ^ bpp := by
  rw [paletteLut_toNat h]
  refine Nat.div_lt_of_lt_mul ?_
  rw [← Nat.pow_add, Nat.sub_add_cancel (by omega)]
  exact p.isLt

theorem quantizeValues_lt {s : State} (h : s.DepthLegal) : ∀ q ∈ (quantizeValues s).1, q.toNat < 2 ^ s.BPP := by
  intro q hq
  obtain ⟨p, -, rfl⟩ := List.mem_map.1 hq
  exact paletteLut_lt (by omega) p

theorem diffuseValues_lt (P : Params) {s : State} (h : s.DepthLegal) :
    ∀ q ∈ (diffuseValues P s).1, q.toNat < 2 ^ s.BPP := by
  intro q hq
  obtain ⟨vb, -, rfl⟩ := List.mem_map.1 hq
  exact bilevel_lt h vb.2

theorem orderedFrom_lt (P : Params) {s : State} (h : s.DepthLegal) (k i n : Nat) :
    ∀ q ∈ (orderedFrom P s k i n).1, q.toNat < 2 ^ s.BPP := by
  intro q hq
  obtain ⟨j, hj⟩ := List.mem_iff_getElem?.1 hq
  obtain ⟨hlt, -⟩ := List.getElem?_eq_some_iff.1 hj
  obtain ⟨p, th, -, -, hvalue⟩ := orderedFrom_value P s k i n j (orderedFrom_length P s k i n ▸ hlt)
  obtain rfl : q = _ := Option.some.inj (hj.symm.trans hvalue)
  exact bilevel_lt h _

/-- Whichever conversion MODE selects, it overlays QBUF with one value of the depth for each pixel. -/
theorem convert_overlay (P : Params) {s : State} (h : s.DepthLegal) (hm : s.MODE ≠ 3) :
    ∃ vs n, s.convert P = (s.withFresh n).withQbuf (Mem.overlay vs s.qbuf) ∧ vs.length = s.N ∧
      ∀ q ∈ vs, q.toNat < 2 ^ s.BPP := by
  have hlt : s.MODE < 4 := s.mode.isLt
  have hmode : s.MODE = 0 ∨ s.MODE = 1 ∨ s.MODE = 2 := by omega
  rcases hmode with hm | hm | hm <;> rw [State.convert, hm]
  · exact ⟨_, _, rfl, quantizeValues_length s, quantizeValues_lt h⟩
  · exact ⟨_, _, rfl, diffuseValues_length P s, diffuseValues_lt P h⟩
  · exact ⟨_, _, rfl, orderedFrom_length P s s.N 0 s.fresh, orderedFrom_lt P h s.N 0 s.fresh⟩

/-- A cell below the length of an overlay holds a value of its list. -/
theorem Mem.exists_cell_overlay {α : Type} {vs : List α} {i : Nat} (hi : i < vs.length) (m : Mem α) :
    ∃ v ∈ vs, Mem.cell (Mem.overlay vs m) i = some v :=
  ⟨vs[i], List.getElem_mem hi, (Mem.cell_overlay_lt hi m).trans (List.getElem?_eq_getElem hi)⟩

/-- After a conversion each cell of QBUF below N holds a value of the depth. -/
theorem convert_qbuf_below (P : Params) {s : State} (h : s.DepthLegal) (hm : s.MODE ≠ 3) {i : Nat} (hi : i < s.N) :
    ∃ q : QVal, Mem.cell (s.convert P).qbuf i = some q ∧ q.toNat < 2 ^ s.BPP := by
  obtain ⟨vs, n, hconv, hlen, hvs⟩ := convert_overlay P h hm
  obtain ⟨q, hq, hcell⟩ := Mem.exists_cell_overlay (hlen.symm ▸ hi) s.qbuf
  exact ⟨q, by rw [hconv]; exact hcell, hvs q hq⟩

theorem convert_qbuf_above (P : Params) {s : State} (h : s.DepthLegal) (hm : s.MODE ≠ 3) {i : Nat} (hi : s.N ≤ i) :
    Mem.cell (s.convert P).qbuf i = Mem.cell s.qbuf i := by
  obtain ⟨vs, n, hconv, hlen, -⟩ := convert_overlay P h hm
  rw [hconv]
  exact Mem.cell_overlay_ge (hlen.symm ▸ hi) s.qbuf

/-- The packer takes what a conversion leaves in QBUF. -/
theorem convert_qbufLegal (P : Params) {s : State} (h : s.DepthLegal) (hm : s.MODE ≠ 3) :
    (s.convert P).QbufLegal := by
  have hN : (s.convert P).N = s.N := by rw [convert_frame]; rfl
  have hbpp : (s.convert P).BPP = s.BPP := by rw [convert_frame]; rfl
  intro i hi
  obtain ⟨q, hcell, hlt⟩ := convert_qbuf_below P h hm (hN ▸ hi)
  refine ⟨q, hcell, fun hone => ?_⟩
  rw [← hbpp, hone] at hlt
  omega

/-! ## The work of PROCESS -/

/-- The work of PROCESS changes QBUF by its conversion, OUT by the record, and OUTLEN and WARN as the packing does. -/
theorem processWork_eq (P : Params) (s : State) :
    commandWork P .process s = { s.completed with
      qbuf := (s.convert P).qbuf, out := Mem.overlay (packedRecord (s.convert P)) s.out,
      fresh := (packedValues (s.convert P)).2, outlen := BitVec.ofNat 32 s.packedBytes,
      warn := s.warn || s.packWarns } := by
  rw [commandWork, completeOk_eq_completed, ← State.convert_packedBytes P s]
  generalize hconv : s.convert P = s'
  have hframe := convert_frame P s
  rw [hconv] at hframe
  obtain ⟨q, n, rfl⟩ : ∃ q n, s' = { s with qbuf := q, fresh := n } := ⟨_, _, hframe⟩
  rfl

/-- PACK of a state that a command has just completed, as the packing and one completion of the state before. -/
theorem exec_pack_of_completed {s : State} (hq : s.QbufLegal) (h : s.DepthLegal) (h' : s.SizeLegal Config.params)
    (hp : s.PackLegal) :
    exec .pack (s.completeOk false) = .next (s.packCore.completeOk s.packWarns) := by
  have hv : validate Config.params .pack (s.completeOk false) = (none, (s.completeOk false).fresh) :=
    validate_pack_of_legal h h' hp hq
  have hpack : commandWork Config.params .pack (s.completeOk false) =
    (s.packCore.completeOk false).completeOk s.packWarns := rfl
  rw [exec_of_valid hv, withFresh_self, hpack]
  simp only [completeOk_eq_completed, Bool.or_false]
  rfl

/-! ## The checks of PROCESS -/

/-- `i` is the conversion that MODE selects (R177). -/
abbrev State.Selects (s : State) (i : Instr) : Prop :=
  (s.MODE = 0 ∧ i = .quantize) ∨ (s.MODE = 1 ∧ i = .diffuse) ∨ (s.MODE = 2 ∧ i = .ordered)

theorem State.Selects.mode_ne_three {s : State} {i : Instr} (h : s.Selects i) : s.MODE ≠ 3 := by omega

/-- The conversion that MODE selects is `convert`, then its completion. -/
theorem commandWork_of_selects (P : Params) {s : State} {i : Instr} (h : s.Selects i) :
    commandWork P i s = (s.convert P).completeOk false := by
  rcases h with ⟨hm, rfl⟩ | ⟨hm, rfl⟩ | ⟨hm, rfl⟩ <;> rw [State.convert, hm] <;> rfl

/-- PROCESS checks MODE, then what its conversion checks, then PAD and GROUP (R192). -/
theorem checkSequence_process {s : State} {i : Instr} (h : s.Selects i) :
    checkSequence s .process = .mode :: (checkSequence s i ++ [.pad, .group]) := by
  rcases h with ⟨hm, rfl⟩ | ⟨hm, rfl⟩ | ⟨hm, rfl⟩ <;> simp [checkSequence, conversionChecks, hm]

theorem validate_process_of_selects {P : Params} {s : State} {i : Instr} (h : s.Selects i) :
    validate P .process s = runChecks P s (checkSequence s i ++ [.pad, .group]) s.fresh := by
  rw [validate, checkSequence_process h, runChecks_cons]
  simp only [runChk, chkMode_none.2 h.mode_ne_three]

/-- PAD and GROUP pass where the packing is legal, and draw no free value. -/
theorem runChecks_packing_of_legal (P : Params) {s : State} (h : s.PackLegal) (n : Nat) :
    runChecks P s [.pad, .group] n = (none, n) := by
  simp [runChecks, runChk, chkPad_none.2 h.1, chkGroup_none_of_legal h]

theorem packLegal_of_runChecks {P : Params} {s : State} {n : Nat} (h : (runChecks P s [.pad, .group] n).1 = none) :
    s.PackLegal := by
  rw [runChecks_cons] at h
  cases hpad : chkPad s with
  | some e => simp [runChk, hpad] at h
  | none =>
    cases hgroup : chkGroup s with
    | some e => simp [runChk, runChecks, hpad, hgroup] at h
    | none => exact ⟨chkPad_none.1 hpad, chkGroup_none.1 hgroup⟩

/-- Where the checks of PROCESS pass, they are those of its conversion, and the packing is legal. -/
theorem validate_process_none {P : Params} {s : State} {i : Instr} (h : s.Selects i)
    (hv : (validate P .process s).1 = none) :
    validate P .process s = validate P i s ∧ s.PackLegal := by
  rw [validate_process_of_selects h] at hv ⊢
  obtain ⟨hconv, hpack⟩ := (runChecks_append_none ..).1 hv
  have hlegal := packLegal_of_runChecks hpack
  rw [runChecks_append _ _ _ _ _ hconv, runChecks_packing_of_legal P hlegal]
  exact ⟨Prod.ext hconv.symm rfl, hlegal⟩

/-- CHK_PAD rejects PADMODE 3 (R191). -/
theorem runChecks_packing_of_reservedPad (P : Params) {s : State} (hpad : s.PAD = 3) (n : Nat) :
    runChecks P s [.pad, .group] n = (some ⟨.invalidPadMode, csrInfo .cfg, 3#32⟩, n) := by
  rw [runChecks_cons]
  simp only [runChk, chkPad, if_pos hpad]

/-- CHK_GROUP rejects a partial group at PADMODE 0 (R191). -/
theorem runChecks_packing_of_rejectedGroup (P : Params) {s : State} (hpad : s.PAD = 0) (hrem : s.N % s.G ≠ 0)
    (n : Nat) :
    runChecks P s [.pad, .group] n = (some ⟨.incompletePackGroup, csrInfo .cfg, BitVec.ofNat 32 s.N⟩, n) := by
  have hpass : chkPad s = none := chkPad_none.2 (by omega)
  rw [runChecks_cons, runChecks_cons]
  simp only [runChk, hpass, chkGroup, if_pos (And.intro hrem hpad)]

end Sys2Proof.Machine
end

section
/-! The claims about the command PROCESS. -/

namespace Sys2Proof.Machine

/-- Settles O26: the checks pass, and the work is the conversion's values in QBUF and their record in OUT. -/
theorem processCompletes : Obligations.ProcessCompletes := by
  intro s w h h' hp hm G nb
  have hmode : s.MODE ≠ 3 := by omega
  have hv : validate Config.params .process s = (none, s.fresh) := by
    rw [validate_process_of_legal h h' hm, runChecks_packing_of_legal _ hp]
  have hlen : (packedRecord (s.convert Config.params)).length = nb :=
    (packedRecord_length _).trans (State.convert_packedBytes _ s)
  refine ⟨_, (exec_of_valid hv).trans (congrArg Host.Outcome.next (processWork_eq _ s)), rfl,
    fun i hi => convert_qbuf_below _ h hmode hi, fun i hi => convert_qbuf_above _ h hmode hi, fun k hk => ?_,
    fun k hk => Mem.cell_overlay_ge (hlen.symm ▸ hk) s.out⟩
  obtain ⟨byte, -, hbyte⟩ := Mem.exists_cell_overlay (hlen.symm ▸ hk) s.out
  exact ⟨byte, hbyte⟩

/-- Settles O27: both sides draw the same free values in their checks, both convert, and the values that the conversion
leaves pass the checks of PACK without drawing any. -/
theorem processIsConversionThenPack : Obligations.ProcessIsConversionThenPack := by
  intro s i (hi : s.Selects i) hv
  obtain ⟨hsame, hp⟩ := validate_process_none hi hv
  obtain ⟨n, hn⟩ : ∃ n, validate Config.params .process s = (none, n) := ⟨_, Prod.ext hv rfl⟩
  obtain ⟨h, h'⟩ := legal_of_validate hn (by decide)
  have hq : ((s.withFresh n).convert Config.params).QbufLegal := convert_qbufLegal _ h hi.mode_ne_three
  have hconversion : exec i s = .next (((s.withFresh n).convert Config.params).completeOk false) := by
    rw [exec_of_valid (hsame ▸ hn), commandWork_of_selects _ (s := s.withFresh n) hi]
  have hprocess : exec .process s =
    .next (((s.withFresh n).convert Config.params).packCore.completeOk s.packWarns) := exec_of_valid hn
  obtain ⟨vs, m, hconv, -⟩ := convert_overlay Config.params (s := s.withFresh n) h hi.mode_ne_three
  rw [hconv] at hq hconversion hprocess
  exact ⟨_, _, hconversion, exec_pack_of_completed hq h h' hp, hprocess⟩

/-- Settles O28: the checks before the packing's pass, so the packing's error is all that PROCESS records. -/
theorem processChecksPackingFirst : Obligations.ProcessChecksPackingFirst := by
  intro s w h h' hm
  have hv := validate_process_of_legal h h' hm
  exact ⟨fun hpad => exec_of_error_fresh (hv.trans (runChecks_packing_of_reservedPad _ hpad _)),
    fun hpad hrem => exec_of_error_fresh (hv.trans (runChecks_packing_of_rejectedGroup _ hpad hrem _))⟩

end Sys2Proof.Machine
end

section
/-! SUPPORT. The checks that fail: the error of a sequence is that of its first failing check, and PROCESS records the
error of the conversion it runs (spec/60_exceptions.md R191, R192). -/

namespace Sys2Proof.Machine

/-! ## Sequences of checks -/

theorem runChecks_cons_of_pass {P : Params} {s : State} {c : Chk} {n n' : Nat} (h : runChk P s n c = (none, n'))
    (cs : List Chk) : runChecks P s (c :: cs) n = runChecks P s cs n' := by
  rw [runChecks_cons, h]

theorem runChecks_cons_of_error {P : Params} {s : State} {c : Chk} {e : CmdError} {n n' : Nat}
    (h : runChk P s n c = (some e, n')) (cs : List Chk) : runChecks P s (c :: cs) n = (some e, n') := by
  rw [runChecks_cons, h]

/-- Where a sequence fails, the checks after it are not evaluated. -/
theorem runChecks_append_of_error {P : Params} {s : State} {cs : List Chk} {e : CmdError} {n n' : Nat}
    (h : runChecks P s cs n = (some e, n')) (ds : List Chk) : runChecks P s (cs ++ ds) n = (some e, n') := by
  induction cs generalizing n with
  | nil => simp at h
  | cons c cs ih =>
    rw [List.cons_append]
    rcases hc : runChk P s n c with ⟨_ | e', m⟩
    · rw [runChecks_cons_of_pass hc] at h ⊢
      exact ih h
    · rw [runChecks_cons_of_error hc] at h ⊢
      exact h

/-! ## What each command checks -/

/-- `i` runs the checks of `j`: it is `j`, or PROCESS where MODE selects `j`. -/
abbrev State.Runs (s : State) (i j : Instr) : Prop := i = j ∨ (i = .process ∧ s.Selects j)

/-- An error of the checks that `i` runs is all that it records. -/
theorem exec_of_runs_error {s : State} {i j : Instr} (hi : s.Runs i j) {e : CmdError}
    (h : validate Config.params j s = (some e, s.fresh)) :
    exec i s = .next (s.recordedError e.code.code e.info e.arg) := by
  refine exec_of_error_fresh ?_
  rcases hi with rfl | ⟨rfl, hj⟩
  · exact h
  · rw [validate_process_of_selects hj]
    exact runChecks_append_of_error h _

/-- The commands that process pixels check BPP, WIDTH and HEIGHT first; PROCESS does so after MODE (R192). -/
theorem exists_runs_of_pixelCommand {s : State} {i : Instr}
    (hi : i = .diffuse ∨ i = .ordered ∨ i = .quantize ∨ i = .pack ∨ (i = .process ∧ s.MODE ≠ 3)) :
    ∃ j cs, s.Runs i j ∧ checkSequence s j = .bpp :: .w :: .h :: cs := by
  rcases hi with rfl | rfl | rfl | rfl | ⟨rfl, hm⟩
  · exact ⟨.diffuse, _, .inl rfl, rfl⟩
  · exact ⟨.ordered, _, .inl rfl, rfl⟩
  · exact ⟨.quantize, _, .inl rfl, rfl⟩
  · exact ⟨.pack, _, .inl rfl, rfl⟩
  · have hlt : s.MODE < 4 := s.mode.isLt
    have hmode : s.MODE = 0 ∨ s.MODE = 1 ∨ s.MODE = 2 := by omega
    rcases hmode with hm | hm | hm
    · exact ⟨.quantize, _, .inr ⟨rfl, .inl ⟨hm, rfl⟩⟩, rfl⟩
    · exact ⟨.diffuse, _, .inr ⟨rfl, .inr (.inl ⟨hm, rfl⟩)⟩, rfl⟩
    · exact ⟨.ordered, _, .inr ⟨rfl, .inr (.inr ⟨hm, rfl⟩)⟩, rfl⟩

theorem runs_diffuse {s : State} {i : Instr} (hi : i = .diffuse ∨ (i = .process ∧ s.MODE = 1)) : s.Runs i .diffuse :=
  hi.imp_right fun ⟨hp, hm⟩ => ⟨hp, .inr (.inl ⟨hm, rfl⟩)⟩

theorem runs_ordered {s : State} {i : Instr} (hi : i = .ordered ∨ (i = .process ∧ s.MODE = 2)) : s.Runs i .ordered :=
  hi.imp_right fun ⟨hp, hm⟩ => ⟨hp, .inr (.inr ⟨hm, rfl⟩)⟩

/-! ## The checks of control registers -/

section
variable {P : Params} {s : State}

theorem runChk_mode_of_reserved (hm : s.MODE = 3) (n : Nat) :
    runChk P s n .mode = (some ⟨.invalidMode, csrInfo .cfg, 3#32⟩, n) := by
  rw [runChk, chkMode, if_pos hm, hm]

theorem runChk_bpp_of_legal (h : s.DepthLegal) (n : Nat) : runChk P s n .bpp = (none, n) := by
  rw [runChk, chkBpp_none.2 h]

theorem runChk_bpp_of_bad (h : s.BPP = 0 ∨ s.BPP = 3) (n : Nat) :
    runChk P s n .bpp = (some ⟨.unsupportedBitDepth, csrInfo .cfg, BitVec.ofNat 32 s.BPP⟩, n) := by
  rw [runChk, chkBpp, if_pos h]

theorem runChk_w_of_legal (h : 1 ≤ s.W ∧ s.W ≤ P.maxW) (n : Nat) : runChk P s n .w = (none, n) := by
  rw [runChk, chkW_none.2 h]

theorem runChk_w_of_bad (h : s.W = 0 ∨ P.maxW < s.W) (n : Nat) :
    runChk P s n .w = (some ⟨.invalidBufferDimensions, csrInfo .width, s.width⟩, n) := by
  rw [runChk, chkW, if_pos h]

theorem runChk_h_of_bad (h : s.H = 0 ∨ P.maxH < s.H) (n : Nat) :
    runChk P s n .h = (some ⟨.invalidBufferDimensions, csrInfo .height, s.height⟩, n) := by
  rw [runChk, chkH, if_pos h]

theorem runChk_kc_of_legal (h : s.KC % 2 = 1 ∧ s.KC ≤ P.kcMax) (n : Nat) : runChk P s n .kc = (none, n) := by
  rw [runChk, chkKc_none.2 h]

theorem runChk_kc_of_bad (h : s.KC % 2 = 0 ∨ P.kcMax < s.KC) (n : Nat) :
    runChk P s n .kc = (some ⟨.invalidKernel, csrInfo .kcols, s.kcols⟩, n) := by
  rw [runChk, chkKc, if_pos h]

theorem runChk_kr_of_bad (h : s.KR = 0 ∨ P.krMax < s.KR) (n : Nat) :
    runChk P s n .kr = (some ⟨.invalidKernel, csrInfo .krows, s.krows⟩, n) := by
  rw [runChk, chkKr, if_pos h]

theorem runChk_t_of_bad (h : s.T = 0 ∨ P.tMax < s.T) (n : Nat) :
    runChk P s n .t = (some ⟨.invalidThresholdMatrix, csrInfo .tsize, s.tsize⟩, n) := by
  rw [runChk, chkT, if_pos h]

/-! ## CHK_KW -/

theorem badWeight_of_not_legal {w : F64} (h : ¬ WeightLegal w) : badWeight w = true := by
  cases hfinite : f64IsFinite w with
  | false => simp [badWeight, hfinite]
  | true =>
    have hneg : f64Lt w (f64Num 0) ≠ false := fun hge => h ⟨hfinite, hge⟩
    simp [badWeight, hneg]

/-- The cells that stand before an applied cell in the list are the applied cells before it in row-major order. -/
theorem appliedCells_split {KR KC r c : Nat} (h : (r, c) ∈ appliedCells KR KC) :
    ∃ before after, appliedCells KR KC = before ++ (r, c) :: after ∧
      ∀ rc ∈ before, rc ∈ appliedCells KR KC ∧ (rc.1 < r ∨ (rc.1 = r ∧ rc.2 < c)) := by
  obtain ⟨before, after, hsplit⟩ := List.append_of_mem h
  have hsorted := appliedCells_sorted KR KC
  rw [hsplit, List.pairwise_append] at hsorted
  obtain ⟨-, -, hbefore⟩ := hsorted
  refine ⟨before, after, hsplit, fun rc hrc => ⟨?_, hbefore rc hrc (r, c) List.mem_cons_self⟩⟩
  rw [hsplit]
  exact List.mem_append_left _ hrc

/-- CHK_KW reports the first applied cell, in row-major order, whose weight it rejects, and draws no free value where
the cells up to it are written. -/
theorem chkKw_of_firstBad {w : Nat → Nat → F64} {r c : Nat} (hrc : s.AppliedCell r c)
    (hw : s.HoldsWeight P r c (w r c)) (hbad : ¬ WeightLegal (w r c))
    (hbefore : ∀ r' c', s.AppliedCell r' c' → r' < r ∨ (r' = r ∧ c' < c) →
      s.HoldsWeight P r' c' (w r' c') ∧ WeightLegal (w r' c')) (n : Nat) :
    chkKw P s n = (some ⟨.invalidKernel, memoryInfo, BitVec.ofNat 32 (r * P.kcMax + c)⟩, n) := by
  obtain ⟨before, after, hsplit, hlt⟩ := appliedCells_split (mem_appliedCells.2 hrc)
  have hpass : firstBadWeight P s before n = (none, n) := by
    refine firstBadWeight_none_of_legal (w := w) (fun rc hmem => ?_) n
    obtain ⟨happlied, hpos⟩ := hlt rc hmem
    exact hbefore rc.1 rc.2 (mem_appliedCells.1 happlied) hpos
  have hfirst : firstBadWeight P s (appliedCells s.KR s.KC) n = (some (r, c), n) := by
    rw [hsplit, firstBadWeight_append hpass, firstBadWeight, readWeight_of_holds hw,
      if_pos (badWeight_of_not_legal hbad)]
  rw [chkKw, hfirst]

end

end Sys2Proof.Machine
end

section
/-! The claims about the errors that the checks report. -/

namespace Sys2Proof.Machine

/-- Settles O34: the cells before it pass, so the scan of CHK_KW stops at this one. -/
theorem badWeightReported : Obligations.BadWeightReported := by
  intro s i w r c h h' hk hi hrc hw hbad hbefore
  exact exec_of_runs_error (runs_diffuse hi)
    ((validate_diffuse_of_shape h h' hk).trans (chkKw_of_firstBad hrc hw hbad hbefore s.fresh))

/-- Settles O31: CHK_BPP is the first check of every command that reads the depth. -/
theorem unsupportedDepthReported : Obligations.UnsupportedDepthReported := by
  intro s i hbpp hi
  obtain ⟨j, cs, hruns, hseq⟩ := exists_runs_of_pixelCommand hi
  have hv : validate Config.params j s = runChecks Config.params s (.bpp :: .w :: .h :: cs) s.fresh := by
    rw [validate, hseq]
  exact exec_of_runs_error hruns (hv.trans (runChecks_cons_of_error (runChk_bpp_of_bad hbpp _) _))

/-- Settles O32: CHK_BPP passes, then CHK_W fails, or passes and CHK_H fails. -/
theorem badDimensionsReported : Obligations.BadDimensionsReported := by
  intro s i h hi
  obtain ⟨j, cs, hruns, hseq⟩ := exists_runs_of_pixelCommand hi
  have hv : validate Config.params j s = runChecks Config.params s (.w :: .h :: cs) s.fresh := by
    rw [validate, hseq, runChecks_cons_of_pass (runChk_bpp_of_legal h _)]
  refine ⟨fun hw => ?_, fun hw hh => ?_⟩
  · exact exec_of_runs_error hruns (hv.trans (runChecks_cons_of_error (runChk_w_of_bad hw _) _))
  · rw [runChecks_cons_of_pass (runChk_w_of_legal hw _)] at hv
    exact exec_of_runs_error hruns (hv.trans (runChecks_cons_of_error (runChk_h_of_bad hh _) _))

/-- Settles O33: CHK_KC fails, or passes and CHK_KR fails. -/
theorem badKernelShapeReported : Obligations.BadKernelShapeReported := by
  intro s i h h' hi
  have hruns := runs_diffuse hi
  have hv : validate Config.params .diffuse s = runChecks Config.params s [.kc, .kr, .kw] s.fresh :=
    validate_of_size h h' rfl
  refine ⟨fun hkc => ?_, fun hkc hkr => ?_⟩
  · exact exec_of_runs_error hruns (hv.trans (runChecks_cons_of_error (runChk_kc_of_bad hkc _) _))
  · rw [runChecks_cons_of_pass (runChk_kc_of_legal hkc _)] at hv
    exact exec_of_runs_error hruns (hv.trans (runChecks_cons_of_error (runChk_kr_of_bad hkr _) _))

/-- Settles O35: CHK_T follows the checks of depth and size. -/
theorem badThresholdSideReported : Obligations.BadThresholdSideReported := by
  intro s i h h' hi ht
  exact exec_of_runs_error (runs_ordered hi)
    ((validate_of_size h h' rfl).trans (runChecks_cons_of_error (runChk_t_of_bad ht _) _))

/-- Settles O37: CHK_MODE heads the sequence of PROCESS, whichever checks follow. -/
theorem reservedModeReported : Obligations.ReservedModeReported := by
  intro s hm
  have hv : validate Config.params .process s =
    runChecks Config.params s (.mode :: ([.bpp, .w, .h] ++ conversionChecks s ++ [.pad, .group])) s.fresh := rfl
  exact exec_of_error_fresh (hv.trans (runChecks_cons_of_error (runChk_mode_of_reserved hm _) _))

end Sys2Proof.Machine
end

section
/-! SUPPORT. What a hardware reset leaves: the reset value of every control register, and which cells it keeps
(spec/70_reset_and_hazards.md R220 to R222). -/

namespace Sys2Proof.Machine

/-- A hardware reset clears the registers, and touches QBUF, OUT and the count of free values alone besides. -/
theorem hardReset_frame (P : Params) (s : State) :
    s.hardReset P = { s.clearRegisters with
      qbuf := (s.hardReset P).qbuf, out := (s.hardReset P).out, fresh := (s.hardReset P).fresh } := by
  rcases hardReset_cases P s with ht | ⟨w, i, -, -, -, ht⟩
  · rw [ht]
  · rw [ht, abandon_frame]; rfl

/-- Every register but the three constants of the build reads 0 in the state after power-on and reset (R220). -/
theorem State.reset_csrRead (P : Params) {c : Csr} (hid : c ≠ .id) (hcaps : c ≠ .caps) (hmaxdim : c ≠ .maxdim) :
    State.reset.csrRead P c = 0#32 := by
  cases c with
  | id => exact absurd rfl hid
  | caps => exact absurd rfl hcaps
  | maxdim => exact absurd rfl hmaxdim
  | ctrl => exact (by decide : State.reset.ctrlWord = 0#32)
  | status => exact (by decide : State.reset.statusWord = 0#32)
  | cfg => exact (by decide : State.reset.cfgWord = 0#32)
  | cmd | errcode | errinfo | errarg | width | height | krows | kcols | tsize | outlen => rfl

/-- A hardware reset leaves in every register what power-on leaves there, whatever state it finds (R220). -/
theorem hardReset_csrRead (P Q : Params) (s : State) (c : Csr) :
    (s.hardReset P).csrRead Q c = State.reset.csrRead Q c := by
  rw [hardReset_frame]
  cases c <;> rfl

/-- Abandoning a command that writes no cell changes nothing: NOP and SOFTRESET check nothing, so draw no free value. -/
theorem abandon_of_writes_no_cell (P : Params) {i : Instr} (hi : i = .nop ∨ i = .softreset) (s : State) :
    s.abandon P i = s := by
  rcases hi with rfl | rfl <;> rfl

/-- A hardware reset clears the registers alone where no command that writes a cell is pending. -/
theorem hardReset_of_writes_no_cell (P : Params) {s : State} {w : Word}
    (h : s.busy = false ∨ (s.pending = some w ∧ ∀ i, decodeWord w = .ok i → i = .nop ∨ i = .softreset)) :
    s.hardReset P = s.clearRegisters := by
  rcases hardReset_cases P s with ht | ⟨w', i, hb, hp, hd, ht⟩
  · exact ht
  · rcases h with hidle | ⟨hw, hnoCell⟩
    · rw [hidle] at hb; cases hb
    · obtain rfl : w = w' := Option.some.inj (hw.symm.trans hp)
      rw [ht, abandon_of_writes_no_cell P (hnoCell i hd)]

end Sys2Proof.Machine
end

section
/-! The claims about hardware reset, whatever is pending and where nothing that writes a cell is. -/

namespace Sys2Proof.Machine

/-- Settles O50: the reset is `clearRegisters` but for QBUF, OUT and the count of free values; none of these three is a
register. -/
theorem hardwareResetClearsRegisters : Obligations.HardwareResetClearsRegisters := by
  intro s rest ha
  have hframe := hardReset_frame Config.params (s.withAgenda rest)
  refine ⟨_, step_of_rst ha, ?_, ?_, fun c hid hcaps hmaxdim => ?_, rfl, rfl, rfl, hframe⟩
  · rw [hframe]; rfl
  · rw [hframe]; rfl
  · rw [hardReset_csrRead, State.reset_csrRead _ hid hcaps hmaxdim]

/-- Settles O51: such a reset is `clearRegisters`, which keeps the five memories. -/
theorem resetKeepsMemories : Obligations.ResetKeepsMemories := by
  intro s rest w ha h
  have hreset : (s.withAgenda rest).hardReset Config.params = (s.withAgenda rest).clearRegisters :=
    hardReset_of_writes_no_cell _ h
  exact ⟨_, (step_of_rst ha).trans (congrArg Host.Outcome.next hreset), rfl, rfl, rfl, rfl, rfl⟩

end Sys2Proof.Machine
end
